-- ==== Sys2Proof/Word.lean ====
section
/-! DEFINITION. The two word widths of the CFC (00_scope.md R7: bytes are 8-bit, counters and words are
32-bit, every value is unsigned). -/

namespace Sys2Proof

/-- A byte: the unit of both byte ports, of the buffers and of ARG8 (R7, R91). -/
abbrev Byte := BitVec 8

/-- A register, command word or CRC value (R7). -/
abbrev Word := BitVec 32

end Sys2Proof
end

