-- ==== Sys2Proof/Syntax.lean ====
section
/-! DEFINITION. The instructions: one constructor for each row of spec/opcode_table.json (30_encoding.md R93
and R100), and the raw encodings a decoder reads. -/

namespace Sys2Proof

/-- The 13 commands of the `CMD` register (R93) and the 9 wire command bytes (R100). The only operand is
`ARG8`, an unsigned byte (R91). -/
inductive Instr where
  -- control (43_control.md)
  | nop
  -- CRC unit (40_crc.md)
  | crcInit
  | crcByte (b : Byte)
  | crcPad4
  -- TX unit (41_tx_serializer.md)
  | txStartCmd (c : Byte)
  | txStartRaw
  | txByte (b : Byte)
  | txSend
  | txAbort
  -- RX unit (42_rx_deserializer.md)
  | rxFrame
  | rxByte
  | rxAckFrame
  -- control (43_control.md)
  | sreset
  -- wire command bytes (44_wire_commands.md)
  | getHelp
  | getID
  | getVersion
  | eraseFlash
  | flashApplication
  | addressJump
  | sayHi
  | sayBye
  | writeData
deriving DecidableEq, Repr

/-- A raw encoding: the three fields of a command word (R90), or the command byte of a command frame (R100). -/
inductive Code where
  | cmd (opc arg8 : Byte) (rsv : BitVec 16)
  | wire (command : Byte)
deriving DecidableEq, Repr

end Sys2Proof
end

