-- ==== Sys2Proof/WellFormed.lean ====
section
/-! DEFINITION. Which raw encodings are well-formed: the three checks of 30_encoding.md R92 on a command word
and the closed set of R100 on a wire command byte. An `Instr` has no ill-formed value, since its only operand is a
byte of which every value is legal (R91); the checks are on the raw encoding. -/

namespace Sys2Proof

/-- The two forms of a command word (R93). -/
inductive OpcForm where
  | none
  | byte
deriving DecidableEq, Repr

/-- The opcode map of R93: the form of each assigned OPC value; every other value is reserved (R94). -/
def opcForms : List (Byte × OpcForm) :=
  [(0x00, .none), (0x01, .none), (0x02, .byte), (0x03, .none), (0x10, .byte), (0x11, .none), (0x12, .byte),
   (0x13, .none), (0x14, .none), (0x20, .none), (0x21, .none), (0x22, .none), (0x5A, .none)]

/-- R92's first check: RSV is zero. -/
def Code.rsvClear : Code → Bool
  | .cmd _ _ rsv => rsv == 0
  | .wire _ => true

/-- R92's second check: OPC is in the table of R93; for a wire byte, the closed set 1..9 of R100. -/
def Code.assigned : Code → Bool
  | .cmd opc _ _ => (opcForms.lookup opc).isSome
  | .wire b => 1 ≤ b.toNat && b.toNat ≤ 9

/-- R92's third check: a command of form "none" has a zero ARG8. -/
def Code.argAllowed : Code → Bool
  | .cmd opc arg8 _ => opcForms.lookup opc == some .byte || arg8 == 0
  | .wire _ => true

/-- A raw encoding that stands for an instruction. -/
def Code.wf (c : Code) : Bool := c.rsvClear && c.assigned && c.argAllowed

end Sys2Proof
end

