-- ==== Sys2Proof/Decode.lean ====
section
/-! DEFINITION. The decoder (30_encoding.md R90 to R95, R100), total on any word, any byte and any list of bytes
and rejecting by name, and the encoder, written from the same table. -/

namespace Sys2Proof

/-- Why an encoding is refused (R92, R94, R100). -/
inductive DecodeError where
  /-- RSV is not zero (R92's first check). -/
  | nonzeroRsv
  /-- OPC is not in the table of R93. -/
  | reservedOpc
  /-- A command of form "none" with a nonzero ARG8. -/
  | nonzeroArg
  /-- A wire command byte outside 1..9 (R100). -/
  | notWireCommand
  /-- A list of bytes that is neither one command word nor one wire command byte. -/
  | badLength
deriving DecidableEq, Repr

/-- The fields of a command word: `RSV = w[31:16]`, `ARG8 = w[15:8]`, `OPC = w[7:0]` (R90). -/
def Code.ofWord (w : Word) : Code :=
  .cmd (w.extractLsb' 0 8) (w.extractLsb' 8 8) (w.extractLsb' 16 16)

/-- The command word with the given fields (R90). -/
def joinWord (opc arg8 : Byte) (rsv : BitVec 16) : Word := rsv ++ (arg8 ++ opc)

/-- R92's third check for a command of form "none". -/
def noOperand (arg8 : Byte) (i : Instr) : Except DecodeError Instr :=
  if arg8 = 0 then .ok i else .error .nonzeroArg

/-- The opcode map of R93. -/
def decodeOpc (opc arg8 : Byte) : Except DecodeError Instr :=
  match opc.toNat with
  | 0x00 => noOperand arg8 .nop
  | 0x01 => noOperand arg8 .crcInit
  | 0x02 => .ok (.crcByte arg8)
  | 0x03 => noOperand arg8 .crcPad4
  | 0x10 => .ok (.txStartCmd arg8)
  | 0x11 => noOperand arg8 .txStartRaw
  | 0x12 => .ok (.txByte arg8)
  | 0x13 => noOperand arg8 .txSend
  | 0x14 => noOperand arg8 .txAbort
  | 0x20 => noOperand arg8 .rxFrame
  | 0x21 => noOperand arg8 .rxByte
  | 0x22 => noOperand arg8 .rxAckFrame
  | 0x5A => noOperand arg8 .sreset
  | _ => .error .reservedOpc

/-- The command byte values of R100. -/
def decodeWire (b : Byte) : Except DecodeError Instr :=
  match b.toNat with
  | 1 => .ok .getHelp
  | 2 => .ok .getID
  | 3 => .ok .getVersion
  | 4 => .ok .eraseFlash
  | 5 => .ok .flashApplication
  | 6 => .ok .addressJump
  | 7 => .ok .sayHi
  | 8 => .ok .sayBye
  | 9 => .ok .writeData
  | _ => .error .notWireCommand

/-- R92's checks in their order: RSV, then OPC, then ARG8. -/
def decodeCode : Code → Except DecodeError Instr
  | .cmd opc arg8 rsv => if rsv = 0 then decodeOpc opc arg8 else .error .nonzeroRsv
  | .wire b => decodeWire b

/-- The command a word written to `CMD` stands for (R92). -/
def decodeCmd (w : Word) : Except DecodeError Instr := decodeCode (Code.ofWord w)

/-- The word whose little-endian lanes are the four bytes (R67: byte `j` holds bits `[8j+7:8j]`). -/
def wordOfBytes (b0 b1 b2 b3 : Byte) : Word := b3 ++ (b2 ++ (b1 ++ b0))

/-- Byte `j` of a word: bits `[8j+7:8j]` (R67, R137). -/
def byteOf (w : Word) (j : Nat) : Byte := w.extractLsb' (8 * j) 8

/-- Decode a list of bytes: one wire command byte, or the four lanes of one command word (R90, R95, R67). -/
def decodeBytes : List Byte → Except DecodeError Instr
  | [b] => decodeWire b
  | [b0, b1, b2, b3] => decodeCmd (wordOfBytes b0 b1 b2 b3)
  | _ => .error .badLength

/-- The encoding of each instruction (R93, R100). -/
def encode : Instr → Code
  | .nop => .cmd 0x00 0 0
  | .crcInit => .cmd 0x01 0 0
  | .crcByte b => .cmd 0x02 b 0
  | .crcPad4 => .cmd 0x03 0 0
  | .txStartCmd c => .cmd 0x10 c 0
  | .txStartRaw => .cmd 0x11 0 0
  | .txByte b => .cmd 0x12 b 0
  | .txSend => .cmd 0x13 0 0
  | .txAbort => .cmd 0x14 0 0
  | .rxFrame => .cmd 0x20 0 0
  | .rxByte => .cmd 0x21 0 0
  | .rxAckFrame => .cmd 0x22 0 0
  | .sreset => .cmd 0x5A 0 0
  | .getHelp => .wire 1
  | .getID => .wire 2
  | .getVersion => .wire 3
  | .eraseFlash => .wire 4
  | .flashApplication => .wire 5
  | .addressJump => .wire 6
  | .sayHi => .wire 7
  | .sayBye => .wire 8
  | .writeData => .wire 9

/-- The bytes of an encoding in the order of R67: the four lanes of a command word, or the one wire byte. -/
def Code.bytes : Code → List Byte
  | .cmd opc arg8 rsv =>
    let w := joinWord opc arg8 rsv
    [byteOf w 0, byteOf w 1, byteOf w 2, byteOf w 3]
  | .wire b => [b]

/-- The word of a command's encoding; a wire command byte stands in it as the `TX_START_CMD` word that
sends it (the note of its row in opcode_table.json, R240). -/
def Code.word : Code → Word
  | .cmd opc arg8 rsv => joinWord opc arg8 rsv
  | .wire b => joinWord 0x10 b 0

/-- The word a host writes to `CMD` for an instruction. -/
def encodeWord (i : Instr) : Word := (encode i).word

/-- The instruction the decoder reads from a row of opcode_table.json whose bits are `w`. The table has
rows of 8 bits (the wire command bytes) and rows of 32 bits (the command words). -/
def decodeTableWord (nbits w : Nat) : Option Instr :=
  if nbits ≤ 8 then
    if w < 0x100 then (decodeWire (BitVec.ofNat 8 w)).toOption else none
  else if w < 0x100000000 then (decodeCmd (BitVec.ofNat 32 w)).toOption else none

end Sys2Proof
end

