-- ==== Sys2Proof/Config.lean ====
section
/-! DEFINITION. The OPEN parameters of 00_scope.md R6 and the free values of 93_implementation_defined.md.
Each is an opaque constant with no body, so a statement about the model holds for every value in the stated
range (assumption log 4 and 5). The parameters R6 fixes are plain definitions in Machine/Codec.lean. -/

namespace Sys2Proof.Config

/-- `P_BASE / 0x200` (R6, R61: `P_BASE` is OPEN, a multiple of 0x200). -/
opaque baseIndex : Nat

/-- `P_BASE`, the host byte address of the register window (R61). -/
def pBase : Nat := baseIndex * 0x200

/-- How far `P_TXCAP` lies above 251 (R6: 251 ≤ `P_TXCAP` ≤ 65536). -/
opaque txcapAbove : Fin 65286

/-- `P_TXCAP`, the capacity of the TX body buffer in bytes (R6, R163). -/
def pTxcap : Nat := txcapAbove.val + 251

/-- `P_TMO_RESET`, the reset value of `RX_TMO`, in ticks (R6, R31: OPEN, any 32-bit value). -/
opaque pTmoReset : Word

/-- `P_APP_SIZE_KB - 1` (93 section 2: any positive integer). -/
opaque appSizeBelow : Nat

/-- `P_APP_SIZE_KB`, read only by the image CRC composition (R6, R139). -/
def pAppSizeKb : Nat := appSizeBelow + 1

/-- `P_TICK`'s numerator, less 1 (93 section 2: any positive period). -/
opaque tickNumBelow : Nat

/-- `P_TICK`'s denominator, less 1. -/
opaque tickDenBelow : Nat

/-- `P_TICK`, the period of the tick input in microseconds, any positive rational number (R6, 93 section 2). No rule of
the CFC reads it, only the host's conversion of a deadline into ticks does (R303; assumption log 4). -/
def pTick : ℚ := ((tickNumBelow + 1 : Nat) : ℚ) / ((tickDenBelow + 1 : Nat) : ℚ)

/-- FREE VALUE. The bytes `RX_BUF` shows at index `≥ rx_cnt`, one draw for each lane of each read
(93 I1 and I3, R40, R65); applied to the counter `State.draws`. -/
opaque freeRxByte : Nat → Byte

/-- FREE VALUE. What a byte of `tx_buf` that nothing has written holds (93 I2, R41, R43); applied to the
byte's index. No rule reads such a byte in a state a run reaches. -/
opaque freeTxByte : Nat → Byte

end Sys2Proof.Config
end

