-- ==== Sys2Proof/Machine/State.lean ====
section
/-! DEFINITION. The state of the CFC: the tuple of 10_state.md R20, element by element under the spec's names, and
beside it what the agents outside the CFC have sent and received (00_scope.md R10, 70_reset_and_hazards.md R313). -/

namespace Sys2Proof.Machine

/-- `tx_state` (R25). -/
inductive TxState where
  | idle
  | opened
  | sending
deriving DecidableEq, Repr

/-- `tx_kind` (R25). -/
inductive TxKind where
  | cmd
  | raw
deriving DecidableEq, Repr

/-- `rx_state` (R26). -/
inductive RxState where
  | idle
  | waitFirst
  | waitBody
deriving DecidableEq, Repr

/-- `rx_mode` (R26). -/
inductive RxMode where
  | frame
  | byte
  | ackFrame
deriving DecidableEq, Repr

/-- The names of the nine event bits (R20, R271). -/
inductive EventBit where
  | txDone
  | rxDone
  | rxTimeout
  | rxDrop
  | txOvf
  | lwrap
  | errOpc
  | errState
  | errArg
deriving DecidableEq, Repr

/-- Nine bits at the event positions of `STATUS` (R29): the element `ev`, and `irq_en` (R20, R30). -/
structure Events where
  txDone : Bool
  rxDone : Bool
  rxTimeout : Bool
  rxDrop : Bool
  txOvf : Bool
  lwrap : Bool
  errOpc : Bool
  errState : Bool
  errArg : Bool
deriving DecidableEq, Repr

/-- No event bit set (R43). -/
def Events.none : Events :=
  { txDone := false, rxDone := false, rxTimeout := false, rxDrop := false, txOvf := false, lwrap := false,
    errOpc := false, errState := false, errArg := false }

/-- A byte buffer: the bytes written so far, as (index, byte) pairs with strictly rising indexes. -/
abbrev Memory := List Host.Cell

/-- The registers of the window (R62). `rxBuf k` is word `k` of `RX_BUF`. -/
inductive Reg where
  | cmd
  | status
  | irqEn
  | rxTmo
  | crcAcc
  | crcCnt
  | txCnt
  | txPos
  | txLen
  | txCrc
  | rxLen
  | rxCnt
  | rxBuf (k : Nat)
deriving DecidableEq, Repr

/-- The width of a host access (R63). -/
inductive AccessSize where
  | byte
  | half
  | word
deriving DecidableEq, Repr

/-- Where a host access goes: a window offset (`RegRead(off)`, `RegWrite(off, v)` of R9) or a host byte
address (`MemRead(addr, 4)`, `MemWrite(addr, 4, v)` of R9). -/
inductive Location where
  | offset (off : Nat)
  | address (addr : Nat)
deriving DecidableEq, Repr

/-- What the host issues. `wire b` is the host's `TX_START_CMD` of the command byte `b`, named by its row of
44_wire_commands.md (R240; assumption log 3). -/
inductive HostAccess where
  | read (at_ : Location) (size : AccessSize)
  | write (at_ : Location) (size : AccessSize) (v : Word)
  | wire (b : Byte)
deriving DecidableEq, Repr

/-- One step of one agent (R10, R313). -/
inductive Event where
  /-- One host access. -/
  | host (a : HostAccess)
  /-- The TX sink holds `tx_ready = 1` for one cycle (R75). -/
  | txReady
  /-- The RX source delivers a byte (R76). -/
  | rxArrive (b : Byte)
  /-- One pulse of the `tick` input (R198). -/
  | tick
  /-- The platform drives the reset input `rst_n` to a level (R300). -/
  | rstN (level : Bool)
deriving DecidableEq, Repr

/-- What the bus answered the host's last access with (R63, R278, R313). -/
inductive Response where
  | none
  | written
  | data (v : Word)
  | busError
deriving DecidableEq, Repr

/-- The CFC's elements (R20), then what stands outside the CFC. -/
structure State where
  -- CRC unit (R23, R24)
  crcAcc : Word
  crcCnt : Word
  -- TX unit (R25)
  txState : TxState
  txKind : TxKind
  txBuf : Memory
  txCnt : Nat
  txSeq : List Byte
  txPos : Nat
  txLen : Byte
  txCrc : Word
  -- RX unit (R26, R27)
  rxState : RxState
  rxMode : RxMode
  rxBuf : Memory
  rxCnt : Nat
  rxLen : Byte
  rxTmo : Word
  rxCtr : Word
  ackOk : Bool
  -- event bits and their enables (R29, R30)
  ev : Events
  irqEn : Events
  -- the level of the reset input (R300)
  rstN : Bool
  -- the steps the agents will take, the next one first (R10; assumption log 1)
  pending : List Event
  -- the bytes the TX sink has accepted, the first one first (R312; assumption log 15)
  sink : List Byte
  -- the answer to the host's last access (assumption log 8)
  resp : Response
  -- how many free bytes have been drawn (the model's own; assumption log 5)
  draws : Nat
deriving DecidableEq, Repr

/-- Why the machine stops. -/
inductive Fault where
  /-- A host access outside the window: it does not reach the CFC and no rule applies to it (R61).
  Raised by `hostAccess`. Safe: the model stops. -/
  | outsideWindow (at_ : Location)
  /-- SENDING with no byte left to emit, which no run reaches (R166, R167). Raised by `txAccept`.
  Safe: the model stops. -/
  | txSeqExhausted
deriving DecidableEq, Repr

/-- What the model gives no meaning. -/
inductive Refusal where
  /-- An instruction with no meaning yet. Safe. -/
  | notModelled (mnemonic : String)
  /-- The image CRC of an image longer than the application area (R139, D39, 93 I11). Answered by
  `imageCrc`, never by an instruction. Safe. -/
  | imageTooLong
  /-- The frame of a command whose payload layout is open (93 I12, R245, R246, R249). Answered by
  `Payload.bytes`, never by an instruction. Safe. -/
  | payloadLayoutOpen
deriving DecidableEq, Repr

/-- The state right after reset (R43, R301): the CFC's elements at the values of R43, `rst_n` released, no agent's
step waiting, nothing accepted by the sink, no access answered. The bytes of `tx_buf` and `rx_buf` are unspecified:
no byte is listed (assumption log 6 and 7). -/
def State.reset : State where
  crcAcc := 0xFFFFFFFF
  crcCnt := 0
  txState := .idle
  txKind := .cmd
  txBuf := []
  txCnt := 0
  txSeq := []
  txPos := 0
  txLen := 0
  txCrc := 0
  rxState := .idle
  rxMode := .frame
  rxBuf := []
  rxCnt := 0
  rxLen := 0
  rxTmo := Config.pTmoReset
  rxCtr := 0
  ackOk := false
  ev := Events.none
  irqEn := Events.none
  rstN := true
  pending := []
  sink := []
  resp := .none
  draws := 0

end Sys2Proof.Machine
end

