-- ==== Sys2Proof/Machine/Flags.lean ====
section
/-! DEFINITION. The event bits, `STATUS`, `IRQ_EN` and the interrupt output (10_state.md R29, R30;
43_control.md R222, R223; 60_exceptions.md R271 to R273). -/

namespace Sys2Proof.Machine

/-- The condition code of an event: its bit number in `STATUS` (R29, R271). -/
def EventBit.position : EventBit → Nat
  | .txDone => 8
  | .rxDone => 9
  | .rxTimeout => 10
  | .rxDrop => 11
  | .txOvf => 12
  | .lwrap => 13
  | .errOpc => 16
  | .errState => 17
  | .errArg => 18

/-- The W1C mask of R29. -/
def eventMask : Word := 0x00073F00

/-- Whether an event bit is set. -/
def Events.get (e : Events) : EventBit → Bool
  | .txDone => e.txDone
  | .rxDone => e.rxDone
  | .rxTimeout => e.rxTimeout
  | .rxDrop => e.rxDrop
  | .txOvf => e.txOvf
  | .lwrap => e.lwrap
  | .errOpc => e.errOpc
  | .errState => e.errState
  | .errArg => e.errArg

/-- Write one event bit. -/
def Events.put (e : Events) (b : EventBit) (v : Bool) : Events :=
  match b with
  | .txDone => { e with txDone := v }
  | .rxDone => { e with rxDone := v }
  | .rxTimeout => { e with rxTimeout := v }
  | .rxDrop => { e with rxDrop := v }
  | .txOvf => { e with txOvf := v }
  | .lwrap => { e with lwrap := v }
  | .errOpc => { e with errOpc := v }
  | .errState => { e with errState := v }
  | .errArg => { e with errArg := v }

/-- A word with one bit at a position. -/
def bitAt (b : Bool) (k : Nat) : Word := if b then 1#32 <<< k else 0#32

/-- The nine bits at their positions, every other bit 0 (R29, R30). -/
def Events.toWord (e : Events) : Word :=
  bitAt e.txDone 8 ||| bitAt e.rxDone 9 ||| bitAt e.rxTimeout 10 ||| bitAt e.rxDrop 11 ||| bitAt e.txOvf 12 |||
  bitAt e.lwrap 13 ||| bitAt e.errOpc 16 ||| bitAt e.errState 17 ||| bitAt e.errArg 18

/-- The nine event positions of a word; the other bits are dropped (R223: `v & 0x00073F00`). -/
def Events.ofWord (v : Word) : Events :=
  { txDone := v.getLsbD 8, rxDone := v.getLsbD 9, rxTimeout := v.getLsbD 10, rxDrop := v.getLsbD 11,
    txOvf := v.getLsbD 12, lwrap := v.getLsbD 13, errOpc := v.getLsbD 16, errState := v.getLsbD 17,
    errArg := v.getLsbD 18 }

/-- Clear the event bits that are set in `v` (R222). -/
def Events.clear (e v : Events) : Events :=
  { txDone := e.txDone && !v.txDone, rxDone := e.rxDone && !v.rxDone, rxTimeout := e.rxTimeout && !v.rxTimeout,
    rxDrop := e.rxDrop && !v.rxDrop, txOvf := e.txOvf && !v.txOvf, lwrap := e.lwrap && !v.lwrap,
    errOpc := e.errOpc && !v.errOpc, errState := e.errState && !v.errState, errArg := e.errArg && !v.errArg }

/-- Whether some event is set and enabled (R272). -/
def Events.anyEnabled (e en : Events) : Bool :=
  (e.txDone && en.txDone) || (e.rxDone && en.rxDone) || (e.rxTimeout && en.rxTimeout) || (e.rxDrop && en.rxDrop) ||
  (e.txOvf && en.txOvf) || (e.lwrap && en.lwrap) || (e.errOpc && en.errOpc) || (e.errState && en.errState) ||
  (e.errArg && en.errArg)

/-- `STATUS.RX_STATE` (R29). -/
def RxState.code : RxState → Word
  | .idle => 0
  | .waitFirst => 1
  | .waitBody => 2

/-- `STATUS.RX_MODE` (R29). -/
def RxMode.code : RxMode → Word
  | .frame => 0
  | .byte => 1
  | .ackFrame => 2

/-- The value of `STATUS` (R29): views of the unit states in bits 0 to 6, the event bits above, reserved
bits 0. -/
def statusWord (s : State) : Word :=
  bitAt (s.txState == .sending) 0 ||| bitAt (s.txState == .opened) 1 ||| (s.rxState.code <<< 2) |||
  (s.rxMode.code <<< 4) ||| bitAt s.ackOk 6 ||| s.ev.toWord

/-- The interrupt output: combinational in the state, 0 while `rst_n` is low (R272, R300). -/
def irq (s : State) : Bool := s.rstN && s.ev.anyEnabled s.irqEn

end Sys2Proof.Machine
end

