-- ==== Sys2Proof/Machine/Ops.lean ====
section
/-! DEFINITION. The shared operations: byte buffers, raising a condition and acknowledging it, the reset of the
CFC's elements, and the host's bus response. -/

namespace Sys2Proof.Machine

/-- What an index that no cell lists reads as: no value, since the spec calls such a byte unspecified
(R40, R41, R43; assumption log 7). -/
def Memory.unlisted : Option Byte := none

/-- The byte at an index. -/
def Memory.read : Memory → Nat → Option Byte
  | [], _ => Memory.unlisted
  | (k, v) :: m, i => if k = i then some v else Memory.read m i

/-- Write one byte, keeping the indexes strictly rising. -/
def Memory.write : Memory → Nat → Byte → Memory
  | [], i, b => [(i, b)]
  | (k, v) :: m, i, b =>
    if i < k then (i, b) :: (k, v) :: m
    else if i = k then (i, b) :: m
    else (k, v) :: Memory.write m i b

/-- Every index of a buffer is at least `lo` and they rise strictly. -/
def Memory.risingFrom : Nat → Memory → Bool
  | _, [] => true
  | lo, (k, _) :: m => decide (lo ≤ k) && Memory.risingFrom (k + 1) m

/-- The canonical form of a buffer: strictly rising indexes. No cell can equal the unlisted value, which is
no value. -/
def Memory.wf (m : Memory) : Bool := Memory.risingFrom 0 m

/-- `raise E`: the CFC's only exception primitive. It sets a sticky `STATUS` bit; it saves nothing, changes no mode and
takes no vector (R9, R270, R276). -/
def raise (e : EventBit) (s : State) : State := { s with ev := s.ev.put e true }

/-- A command's own clearing of an event bit (R161, R162, R191 to R193, R273). -/
def lower (e : EventBit) (s : State) : State := { s with ev := s.ev.put e false }

/-- The host's acknowledgment of conditions: the W1C write of `STATUS` that stands in place of a return
(R222, R273, R277). -/
def acknowledge (v : Word) (s : State) : State := { s with ev := s.ev.clear (Events.ofWord v) }

/-- Every element of R43 at its reset value; what the agents outside the CFC hold stays (R221, R300). -/
def cfcReset (s : State) : State :=
  { State.reset with
    rstN := s.rstN, pending := s.pending, sink := s.sink, resp := s.resp, draws := s.draws }

/-- The bus answers the host (R63, R66, R278). -/
def respond (r : Response) (s : State) : State := { s with resp := r }

/-- Byte `i` of `tx_buf`; a byte that nothing has written is a free value (R41, 93 I2). -/
def txBufByte (s : State) (i : Nat) : Byte := (Memory.read s.txBuf i).getD (Config.freeTxByte i)

/-- `tx_buf[0 .. tx_cnt-1]`, the frame body assembled so far (R25). -/
def txBody (s : State) : List Byte := (List.range s.txCnt).map (txBufByte s)

/-- Byte `i` of `rx_buf` as a host read of it shows it: exact below `rx_cnt`, else the free value of the draw
`n` (R40, R65, 93 I1). -/
def rxBufByte (s : State) (n i : Nat) : Byte :=
  if i < s.rxCnt then (Memory.read s.rxBuf i).getD (Config.freeRxByte n) else Config.freeRxByte n

/-- `rx_buf[0 .. rx_cnt-1]` where every byte of it has been received (R26). -/
def rxBody (s : State) : List (Option Byte) := (List.range s.rxCnt).map (Memory.read s.rxBuf)

end Sys2Proof.Machine
end

