-- ==== Sys2Proof/Machine/Operands.lean ====
section
/-! DEFINITION. The operand of a command (30_encoding.md R91), the register map (20_memory.md R61 to R64) and the
value each register reads (10_state.md R28 to R40). -/

namespace Sys2Proof.Machine

/-- `ARG8 = w[15:8]`, an unsigned byte used as is: not extended, scaled or shifted (R91). -/
def arg8 (w : Word) : Byte := byteOf w 1

/-- The window offset of a location, if it lies in the window: `addr - P_BASE` (R61). -/
def Location.offset? : Location → Option Nat
  | .offset off => if off < 0x200 then some off else none
  | .address addr =>
    if Config.pBase ≤ addr ∧ addr - Config.pBase < 0x200 then some (addr - Config.pBase) else none

/-- The window offset of a register (R62). -/
def Reg.offset : Reg → Nat
  | .cmd => 0x000
  | .status => 0x004
  | .irqEn => 0x008
  | .rxTmo => 0x00C
  | .crcAcc => 0x010
  | .crcCnt => 0x014
  | .txCnt => 0x018
  | .txPos => 0x01C
  | .txLen => 0x020
  | .txCrc => 0x024
  | .rxLen => 0x028
  | .rxCnt => 0x02C
  | .rxBuf k => 0x100 + 4 * k

/-- The register at an aligned offset; offsets 0x030 to 0x0FC hold none (R62, R64). -/
def regAt (off : Nat) : Option Reg :=
  match off with
  | 0x000 => some .cmd
  | 0x004 => some .status
  | 0x008 => some .irqEn
  | 0x00C => some .rxTmo
  | 0x010 => some .crcAcc
  | 0x014 => some .crcCnt
  | 0x018 => some .txCnt
  | 0x01C => some .txPos
  | 0x020 => some .txLen
  | 0x024 => some .txCrc
  | 0x028 => some .rxLen
  | 0x02C => some .rxCnt
  | n => if 0x100 ≤ n ∧ n ≤ 0x1FC ∧ n % 4 = 0 then some (.rxBuf ((n - 0x100) / 4)) else none

/-- The register an access reaches: only a 32-bit access at a mapped multiple of 4 reaches one
(R63, R64). -/
def accessedReg (off : Nat) (size : AccessSize) : Option Reg :=
  if size = .word ∧ off % 4 = 0 then regAt off else none

/-- A register name as R103 writes it, without the index of `RX_BUF[k]`. -/
def Reg.name : Reg → String
  | .cmd => "CMD"
  | .status => "STATUS"
  | .irqEn => "IRQ_EN"
  | .rxTmo => "RX_TMO"
  | .crcAcc => "CRC_ACC"
  | .crcCnt => "CRC_CNT"
  | .txCnt => "TX_CNT"
  | .txPos => "TX_POS"
  | .txLen => "TX_LEN"
  | .txCrc => "TX_CRC"
  | .rxLen => "RX_LEN"
  | .rxCnt => "RX_CNT"
  | .rxBuf _ => "RX_BUF"

/-- Word `k` of `RX_BUF`: body byte `4k + j` in lane `j` (R40, R67). Lane `j` uses draw `draws + j` where
its byte is unspecified. -/
def rxBufWord (s : State) (k : Nat) : Word :=
  wordOfBytes (rxBufByte s s.draws (4 * k)) (rxBufByte s (s.draws + 1) (4 * k + 1))
    (rxBufByte s (s.draws + 2) (4 * k + 2)) (rxBufByte s (s.draws + 3) (4 * k + 3))

/-- The value a register reads (R28 to R40). -/
def regRead (s : State) : Reg → Word
  | .cmd => 0
  | .status => statusWord s
  | .irqEn => s.irqEn.toWord
  | .rxTmo => s.rxTmo
  | .crcAcc => s.crcAcc
  | .crcCnt => s.crcCnt
  | .txCnt => BitVec.ofNat 32 s.txCnt
  | .txPos => BitVec.ofNat 32 s.txPos
  | .txLen => s.txLen.setWidth 32
  | .txCrc => s.txCrc
  | .rxLen => s.rxLen.setWidth 32
  | .rxCnt => BitVec.ofNat 32 s.rxCnt
  | .rxBuf k => rxBufWord s k

/-- How many free bytes a read of a register draws: one for each lane of `RX_BUF` (R65). -/
def Reg.drawsUsed : Reg → Nat
  | .rxBuf _ => 4
  | _ => 0

/-- A write to a register other than `CMD`: `STATUS` is W1C, `IRQ_EN` and `RX_TMO` store, every read-only
register ignores it (R66, R222 to R224). -/
def regWrite (s : State) (r : Reg) (v : Word) : State :=
  match r with
  | .status => acknowledge v s
  | .irqEn => { s with irqEn := Events.ofWord v }
  | .rxTmo => { s with rxTmo := v }
  | _ => s

end Sys2Proof.Machine
end

