-- ==== Sys2Proof/Machine/Control.lean ====
section
/-! DEFINITION. The control commands (43_control.md R220, R221) and the answer to a word that does not decode
(30_encoding.md R92). -/

namespace Sys2Proof.Machine

/-- `NOP`: no effect (R220). -/
def execNop (s : State) : Host.Outcome State Fault Refusal := .next s

/-- `SRESET`: every element takes its reset value in this one step; the access that wrote it completes
normally (R221). -/
def execSreset (s : State) : Host.Outcome State Fault Refusal := .next (cfcReset s)

/-- A command word that does not decode raises ERR_OPC and changes nothing else (R92, R94). -/
def undecodable (s : State) : Host.Outcome State Fault Refusal := .next (raise .errOpc s)

end Sys2Proof.Machine
end

