-- ==== Sys2Proof/Machine/Codec.lean ====
section
/-! DEFINITION. The source's functions, byte for byte normative (00_scope.md R2): `crc32`, `append_crc`, the image CRC
(40_crc.md), `encode` (30_encoding.md R96 to R99, 41_tx_serializer.md R164, R168), `decode_length_prefixed`
(42_rx_deserializer.md R202) and the ACK rule (30_encoding.md R101). -/

namespace Sys2Proof.Machine

/-- The CRC polynomial (R6). -/
def crcPoly : Word := 0x04C11DB7

/-- The accumulator at the start of a computation (R6). -/
def crcStart : Word := 0xFFFFFFFF

/-- The acknowledgment value (R6, R101). -/
def ackByte : Byte := 0x01

/-- The negative acknowledgment value, a failure like any other byte (R6, R101). -/
def nackByte : Byte := 0x02

/-- One of the eight rounds of R130: shift left, and XOR the polynomial in if the top bit was set. -/
def crcRound (a : Word) : Word :=
  if a.getLsbD 31 then (a <<< 1) ^^^ crcPoly else a <<< 1

/-- `k` rounds, the first one first (R130: "repeat 8 times"). -/
def crcRounds : Nat → Word → Word
  | 0, a => a
  | k + 1, a => crcRounds k (crcRound a)

/-- `crc_step(acc, b)`: the byte goes into the top 8 bits, then eight rounds (R130). -/
def crcStep (acc : Word) (b : Byte) : Word := crcRounds 8 (acc ^^^ (b.setWidth 32 <<< 24))

/-- Fold a byte sequence into an accumulator, in order (R131, R134). -/
def crcFold (acc : Word) : List Byte → Word
  | [] => acc
  | b :: bs => crcFold (crcStep acc b) bs

/-- `crc32(s)`: the output XOR is zero, so there is no final step (R131). -/
def crc32 (s : List Byte) : Word := crcFold crcStart s

/-- `zeros(k)` (R8). -/
def zeros (k : Nat) : List Byte := List.replicate k 0x00

/-- `ff(k)` (R8). -/
def ffs (k : Nat) : List Byte := List.replicate k 0xFF

/-- How many bytes bring a length to a multiple of 4: `(4 - n mod 4) mod 4` (R135, R137). -/
def padCount (n : Nat) : Nat := (4 - n % 4) % 4

/-- `crc32` of the zero-padded sequence (R99, R137). -/
def paddedCrc (d : List Byte) : Word := crc32 (d ++ zeros (padCount d.length))

/-- A word as four bytes, the lowest first (R99, R137). -/
def leBytes (c : Word) : List Byte := [byteOf c 0, byteOf c 1, byteOf c 2, byteOf c 3]

/-- `append_crc(d)`: the padding is in the computation and not in the output (R137). -/
def appendCrc (d : List Byte) : List Byte := d ++ leBytes (paddedCrc d)

/-- The length byte of a frame with a body of `n` bytes: `(n + 4) mod 256` (R98, C1, C5). -/
def lengthByte (n : Nat) : Byte := BitVec.ofNat 8 (n + 4)

/-- The frame of a body: length byte, body, CRC suffix (R96, R97, R164). -/
def frameOf (body : List Byte) : List Byte := lengthByte body.length :: appendCrc body

/-- `encode(command, payload)` (R96, R168). -/
def commandFrame (c : Byte) (payload : List Byte) : List Byte := frameOf (c :: payload)

/-- The raw frame of a chunk (R97). -/
def chunkFrame (chunk : List Byte) : List Byte := frameOf chunk

/-- `decode_length_prefixed` on the bytes that arrive in time (R102, R202): the body, or none where the
length byte or a body byte does not come. No CRC is checked (R200). -/
def decodeLengthPrefixed : List Byte → Option (List Byte)
  | [] => none
  | len :: rest => if len.toNat ≤ rest.length then some (rest.take len.toNat) else none

/-- The ACK rule: `0x01` is success, any other byte is failure (R101, D33). -/
def isAck (b : Byte) : Bool := b == ackByte

/-- Reverse the bytes of each 4-byte word; a partial word does not occur (R139). -/
def swapWords : List Byte → List Byte
  | b0 :: b1 :: b2 :: b3 :: rest => b3 :: b2 :: b1 :: b0 :: swapWords rest
  | _ => []

/-- The transformed buffer of the image CRC for an area of `size` bytes (R139). -/
def imageBuffer (size : Nat) (m : List Byte) : List Byte := swapWords (m ++ ffs (size - m.length))

/-- The image CRC for an area of `size` bytes, refused where the image is longer (R139, D39). -/
def imageCrcFor (size : Nat) (m : List Byte) : Except Refusal Word :=
  if m.length ≤ size then .ok (crc32 (imageBuffer size m)) else .error .imageTooLong

/-- `image_crc(m)` with `S = P_APP_SIZE_KB · 1024` (R139). -/
def imageCrc (m : List Byte) : Except Refusal Word := imageCrcFor (Config.pAppSizeKb * 1024) m

end Sys2Proof.Machine
end

