-- ==== Sys2Proof/Machine/Crc.lean ====
section
/-! DEFINITION. The CRC unit's commands (40_crc.md R133 to R135). They are accepted in every state of every unit and
touch no other unit (R141). -/

namespace Sys2Proof.Machine

/-- Fold one byte and count it, modulo 2^32 (R134). -/
def foldByte (b : Byte) (s : State) : State :=
  { s with crcAcc := crcStep s.crcAcc b, crcCnt := s.crcCnt + 1 }

/-- Fold `k` zero bytes, counting each (R135). -/
def foldZeros : Nat → State → State
  | 0, s => s
  | k + 1, s => foldZeros k (foldByte 0x00 s)

/-- `CRC_INIT` (R133). -/
def execCrcInit (s : State) : Host.Outcome State Fault Refusal :=
  .next { s with crcAcc := crcStart, crcCnt := 0 }

/-- `CRC_BYTE` (R134). -/
def execCrcByte (b : Byte) (s : State) : Host.Outcome State Fault Refusal := .next (foldByte b s)

/-- `CRC_PAD4`: `(4 - crc_cnt[1:0]) mod 4` zero bytes (R135). -/
def execCrcPad4 (s : State) : Host.Outcome State Fault Refusal :=
  .next (foldZeros (padCount (s.crcCnt.extractLsb' 0 2).toNat) s)

end Sys2Proof.Machine
end

