-- ==== Sys2Proof/Machine/Rx.lean ====
section
/-! DEFINITION. The RX unit: its commands (42_rx_deserializer.md R190 to R193), byte arrival (R194 to R197) and the
deadline (R198, R199). -/

namespace Sys2Proof.Machine

/-- The arm shared by R191, R192 and R193, which differ in the mode alone. `rx_buf` and RX_DROP are
kept (D20). -/
def arm (mode : RxMode) (s : State) : State :=
  if s.rxState ≠ .idle then raise .errState s
  else
    lower .rxTimeout (lower .rxDone
      { s with
        rxMode := mode, rxState := .waitFirst, rxCnt := 0, rxLen := 0, ackOk := false, rxCtr := s.rxTmo })

/-- `RX_FRAME` (R191). -/
def execRxFrame (s : State) : Host.Outcome State Fault Refusal := .next (arm .frame s)

/-- `RX_BYTE` (R192). -/
def execRxByte (s : State) : Host.Outcome State Fault Refusal := .next (arm .byte s)

/-- `RX_ACK_FRAME` (R193). -/
def execRxAckFrame (s : State) : Host.Outcome State Fault Refusal := .next (arm .ackFrame s)

/-- The length byte (R195). -/
def takeLength (b : Byte) (s : State) : State :=
  if b = 0 then raise .rxDone { s with rxLen := b, rxState := .idle }
  else { s with rxLen := b, rxState := .waitBody, rxCtr := s.rxTmo }

/-- The single byte that ends a BYTE receive, or an ACK_FRAME receive without an acknowledgment (R196). -/
def takeSingle (b : Byte) (s : State) : State :=
  raise .rxDone
    { s with
      ackOk := isAck b, rxBuf := s.rxBuf.write 0 b, rxCnt := 1, rxLen := 1, rxState := .idle }

/-- The acknowledgment of an ACK_FRAME receive: the length byte comes next, under a fresh deadline (R196). -/
def takeAck (b : Byte) (s : State) : State :=
  if isAck b then { s with ackOk := true, rxMode := .frame, rxCtr := s.rxTmo } else takeSingle b s

/-- A body byte; the deadline is not reloaded (R197). -/
def takeBody (b : Byte) (s : State) : State :=
  if s.rxCnt + 1 = s.rxLen.toNat then
    raise .rxDone { s with rxBuf := s.rxBuf.write s.rxCnt b, rxCnt := s.rxCnt + 1, rxState := .idle }
  else { s with rxBuf := s.rxBuf.write s.rxCnt b, rxCnt := s.rxCnt + 1 }

/-- The arrival of a byte (R194 to R197). It is always taken: a byte nothing waits for is dropped. -/
def rxArrive (b : Byte) (s : State) : State :=
  match s.rxState with
  | .idle => raise .rxDrop s
  | .waitFirst =>
    match s.rxMode with
    | .frame => takeLength b s
    | .byte => takeSingle b s
    | .ackFrame => takeAck b s
  | .waitBody => takeBody b s

/-- The wait's deadline expires; what has been received stays (R199). -/
def expire (s : State) : State := raise .rxTimeout { s with rxState := .idle }

/-- One pulse of `tick`: it counts only while a receive waits and the TX unit is IDLE (R198). -/
def tick (s : State) : State :=
  if s.rxState ≠ .idle ∧ s.txState = .idle then
    if s.rxCtr = 0 then expire s else { s with rxCtr := s.rxCtr - 1 }
  else s

end Sys2Proof.Machine
end

