-- ==== Sys2Proof/Machine/Tx.lean ====
section
/-! DEFINITION. The TX unit: its commands (41_tx_serializer.md R160 to R165), its port (20_memory.md R75) and its
emission step (R166, R167). -/

namespace Sys2Proof.Machine

/-- R161's pseudocode for the command byte `c`: ERR_STATE is checked ahead of ERR_ARG (R274). -/
def startCommand (c : Byte) (s : State) : State :=
  if s.txState = .sending then raise .errState s
  else if c.toNat < 1 ∨ 9 < c.toNat then raise .errArg s
  else
    lower .txDone
      { s with txKind := .cmd, txBuf := s.txBuf.write 0 c, txCnt := 1, txPos := 0, txState := .opened }

/-- R162's pseudocode. -/
def startRaw (s : State) : State :=
  if s.txState = .sending then raise .errState s
  else lower .txDone { s with txKind := .raw, txCnt := 0, txPos := 0, txState := .opened }

/-- R163's pseudocode: a byte that finds the buffer full discards the whole open frame. -/
def appendByte (b : Byte) (s : State) : State :=
  if s.txState ≠ .opened then raise .errState s
  else if s.txCnt = Config.pTxcap then raise .txOvf { s with txState := .idle, txCnt := 0 }
  else { s with txBuf := s.txBuf.write s.txCnt b, txCnt := s.txCnt + 1 }

/-- The frame R164 fixes from the open body. -/
def fixFrame (s : State) : State :=
  { s with
    txLen := lengthByte s.txCnt
    txCrc := paddedCrc (txBody s)
    txSeq := lengthByte s.txCnt :: (txBody s ++ leBytes (paddedCrc (txBody s)))
    txPos := 0
    txState := .sending }

/-- R164's pseudocode: LWRAP records a wrapped length byte, and the frame is sent all the same. -/
def sendFrame (s : State) : State :=
  if s.txState ≠ .opened then raise .errState s
  else if s.txCnt + 4 > 255 then raise .lwrap (fixFrame s)
  else fixFrame s

/-- R165's pseudocode. -/
def abortFrame (s : State) : State :=
  if s.txState = .sending then raise .errState s
  else if s.txState = .opened then { s with txState := .idle, txCnt := 0 }
  else s

/-- `TX_START_CMD` (R161). -/
def execTxStartCmd (c : Byte) (s : State) : Host.Outcome State Fault Refusal := .next (startCommand c s)

/-- `TX_START_RAW` (R162). -/
def execTxStartRaw (s : State) : Host.Outcome State Fault Refusal := .next (startRaw s)

/-- `TX_BYTE` (R163). -/
def execTxByte (b : Byte) (s : State) : Host.Outcome State Fault Refusal := .next (appendByte b s)

/-- `TX_SEND`, one indivisible step (R164, R69). -/
def execTxSend (s : State) : Host.Outcome State Fault Refusal := .next (sendFrame s)

/-- `TX_ABORT` (R165). -/
def execTxAbort (s : State) : Host.Outcome State Fault Refusal := .next (abortFrame s)

/-- The output `tx_valid` (R75), 0 while `rst_n` is low (R300). -/
def txValid (s : State) : Bool := s.rstN && s.txState == .sending

/-- The output `tx_data` while `tx_valid = 1`: `tx_seq[tx_pos]` (R75). -/
def txData (s : State) : Option Byte := if txValid s then s.txSeq[s.txPos]? else none

/-- The sink takes one byte; with the last one the frame is complete (R166, R167). -/
def emitByte (b : Byte) (s : State) : State :=
  if s.txPos + 1 = s.txSeq.length then
    raise .txDone { s with sink := s.sink ++ [b], txPos := s.txPos + 1, txState := .idle }
  else { s with sink := s.sink ++ [b], txPos := s.txPos + 1 }

/-- A cycle with `tx_ready = 1`: a byte moves exactly when `tx_valid = 1` (R75, R166). SENDING with no byte
left is reached by no run (assumption log 10). -/
def txAccept (s : State) : Host.Outcome State Fault Refusal :=
  if s.txState = .sending then
    match s.txSeq[s.txPos]? with
    | some b => .next (emitByte b s)
    | none => .fault .txSeqExhausted
  else .next s

end Sys2Proof.Machine
end

