-- ==== Sys2Proof/Machine/Wire.lean ====
section
/-! DEFINITION. The nine wire command bytes (44_wire_commands.md R240 to R249). The codec carries them and does not
interpret them: handing command byte `c` to the codec is `TX_START_CMD c` (R240; assumption log 3). Payload shapes and
exchanges are what the source gives of each (R241 to R250). -/

namespace Sys2Proof.Machine

/-- GetHelp, value 1 (R241). -/
def execGetHelp (s : State) : Host.Outcome State Fault Refusal := .next (startCommand 1 s)

/-- GetID, value 2 (R242). -/
def execGetID (s : State) : Host.Outcome State Fault Refusal := .next (startCommand 2 s)

/-- GetVersion, value 3 (R243). -/
def execGetVersion (s : State) : Host.Outcome State Fault Refusal := .next (startCommand 3 s)

/-- EraseFlash, value 4 (R244). -/
def execEraseFlash (s : State) : Host.Outcome State Fault Refusal := .next (startCommand 4 s)

/-- FlashApplication, value 5 (R245). -/
def execFlashApplication (s : State) : Host.Outcome State Fault Refusal := .next (startCommand 5 s)

/-- AddressJump, value 6 (R246). -/
def execAddressJump (s : State) : Host.Outcome State Fault Refusal := .next (startCommand 6 s)

/-- SayHi, value 7 (R247). -/
def execSayHi (s : State) : Host.Outcome State Fault Refusal := .next (startCommand 7 s)

/-- SayBye, value 8 (R248). -/
def execSayBye (s : State) : Host.Outcome State Fault Refusal := .next (startCommand 8 s)

/-- WriteData, value 9 (R249). -/
def execWriteData (s : State) : Host.Outcome State Fault Refusal := .next (startCommand 9 s)

/-- What follows a command's acknowledgment (R241 to R249, R250). -/
inductive Exchange where
  /-- One acknowledgment byte. -/
  | ack
  /-- An acknowledgment, then a length-prefixed response body. -/
  | ackThenBody
  /-- An acknowledgment, then the bulk transfer of R251. -/
  | ackThenBulk
deriving DecidableEq, Repr

/-- The exchange of a command byte; none outside the closed set (R241 to R249). -/
def exchangeOf (c : Byte) : Option Exchange :=
  match c.toNat with
  | 1 => some .ackThenBody
  | 2 => some .ackThenBody
  | 3 => some .ackThenBody
  | 4 => some .ack
  | 5 => some .ackThenBulk
  | 6 => some .ack
  | 7 => some .ack
  | 8 => some .ack
  | 9 => some .ack
  | _ => none

/-- The payloads the source names. `raw` is whatever bytes the host gives: the CFC sends any (93 I12). -/
inductive Payload where
  | raw (bytes : List Byte)
  /-- `{start_page, page_count}`, one byte each in that order (R244, D42). -/
  | erase (startPage pageCount : Byte)
  /-- `{start_page, ceil(payload.len()/250)}`, widths and byte order open (R245, C2). -/
  | flashHeader (startPage chunkCount : Nat)
  /-- 4 bytes of address, byte order open (R246). -/
  | jumpAddress (address : Word)
  /-- 8 bytes of address and data, order and byte order open (R249). -/
  | addressAndData (address data : Word)
deriving DecidableEq, Repr

/-- The payload's bytes, refused by name where the spec leaves the layout open (93 I12). -/
def Payload.bytes : Payload → Except Refusal (List Byte)
  | .raw bs => .ok bs
  | .erase startPage pageCount => .ok [startPage, pageCount]
  | .flashHeader _ _ => .error .payloadLayoutOpen
  | .jumpAddress _ => .error .payloadLayoutOpen
  | .addressAndData _ _ => .error .payloadLayoutOpen

/-- The number of payload bytes the source gives a command, where it gives one (R242, R244, R246, R249); none
where it is not stated (R241, R243, R245, R247, R248). -/
def payloadLength (c : Byte) : Option Nat :=
  match c.toNat with
  | 2 => some 0
  | 4 => some 2
  | 6 => some 4
  | 9 => some 8
  | _ => none

/-- The packed version word `(minor<<24 | major<<16 | chip_id<<8)` (R249). -/
def versionWord (chipId major minor : Byte) : Word :=
  (minor.setWidth 32 <<< 24) ||| (major.setWidth 32 <<< 16) ||| (chipId.setWidth 32 <<< 8)

/-- The bulk transfer's chunk limit (R6, R251). -/
def chunkSize : Nat := 250

/-- `ceil(n/250)` (R245, R251). -/
def chunkCount (n : Nat) : Nat := (n + (chunkSize - 1)) / chunkSize

/-- The chunks `payload[250k .. min(250k+249, n-1)]` (R251). -/
def chunks (payload : List Byte) : List (List Byte) :=
  (List.range (chunkCount payload.length)).map fun k => (payload.drop (chunkSize * k)).take chunkSize

end Sys2Proof.Machine
end

