-- ==== Sys2Proof/Machine/Dispatch.lean ====
section
/-! DEFINITION. One arm per row of spec/opcode_table.json: the meaning of each instruction (30_encoding.md R93,
R100). -/

namespace Sys2Proof.Machine

def exec (i : Instr) (s : State) : Host.Outcome State Fault Refusal :=
  match i with
  | .nop => Sys2Proof.Machine.execNop s
  | .crcInit => Sys2Proof.Machine.execCrcInit s
  | .crcByte b => Sys2Proof.Machine.execCrcByte b s
  | .crcPad4 => Sys2Proof.Machine.execCrcPad4 s
  | .txStartCmd c => Sys2Proof.Machine.execTxStartCmd c s
  | .txStartRaw => Sys2Proof.Machine.execTxStartRaw s
  | .txByte b => Sys2Proof.Machine.execTxByte b s
  | .txSend => Sys2Proof.Machine.execTxSend s
  | .txAbort => Sys2Proof.Machine.execTxAbort s
  | .rxFrame => Sys2Proof.Machine.execRxFrame s
  | .rxByte => Sys2Proof.Machine.execRxByte s
  | .rxAckFrame => Sys2Proof.Machine.execRxAckFrame s
  | .sreset => Sys2Proof.Machine.execSreset s
  | .getHelp => Sys2Proof.Machine.execGetHelp s
  | .getID => Sys2Proof.Machine.execGetID s
  | .getVersion => Sys2Proof.Machine.execGetVersion s
  | .eraseFlash => Sys2Proof.Machine.execEraseFlash s
  | .flashApplication => Sys2Proof.Machine.execFlashApplication s
  | .addressJump => Sys2Proof.Machine.execAddressJump s
  | .sayHi => Sys2Proof.Machine.execSayHi s
  | .sayBye => Sys2Proof.Machine.execSayBye s
  | .writeData => Sys2Proof.Machine.execWriteData s

end Sys2Proof.Machine
end

