-- ==== Sys2Proof/Machine/Bus.lean ====
section
/-! DEFINITION. The host's accesses to the register window (20_memory.md R60 to R70) and the agents' steps, with the
reset input over them (70_reset_and_hazards.md R300; 60_exceptions.md R275). -/

namespace Sys2Proof.Machine

/-- A write of a word to `CMD`: decode and execute in one step (R92, R69). -/
def writeCmd (w : Word) (s : State) : Host.Outcome State Fault Refusal :=
  match decodeCmd w with
  | .ok i => exec i s
  | .error _ => undecodable s

/-- The host hands the codec a wire command byte. Outside the closed set this is what `TX_START_CMD` does
with that byte (R100, R161, R240). -/
def sendWireByte (b : Byte) (s : State) : Host.Outcome State Fault Refusal :=
  match decodeWire b with
  | .ok i => exec i s
  | .error _ => execTxStartCmd b s

/-- A read of a register: the host gets the value, the CFC's elements are unchanged (R65). -/
def readReg (r : Reg) (s : State) : State :=
  { s with resp := .data (regRead s r), draws := s.draws + r.drawsUsed }

/-- A write to a register completes without error (R66). -/
def writeReg (r : Reg) (v : Word) (s : State) : Host.Outcome State Fault Refusal :=
  match r with
  | .cmd => writeCmd v (respond .written s)
  | _ => .next (regWrite (respond .written s) r v)

/-- A host access while `rst_n` is low: a bus error with no effect, the elements at their reset values (R300). -/
def accessUnderReset (s : State) : State := respond .busError (cfcReset s)

/-- One host access. A location outside the window does not reach the CFC (R61); a sub-word, misaligned or unmapped
access is answered with a bus error and changes no element (R63, R64; assumption log 8 and 9). -/
def hostAccess (a : HostAccess) (s : State) : Host.Outcome State Fault Refusal :=
  match a with
  | .wire b => if s.rstN then sendWireByte b (respond .written s) else .next (accessUnderReset s)
  | .read l size =>
    match l.offset? with
    | none => .fault (.outsideWindow l)
    | some off =>
      if s.rstN then
        match accessedReg off size with
        | some r => .next (readReg r s)
        | none => .next (respond .busError s)
      else .next (accessUnderReset s)
  | .write l size v =>
    match l.offset? with
    | none => .fault (.outsideWindow l)
    | some off =>
      if s.rstN then
        match accessedReg off size with
        | some r => writeReg r v s
        | none => .next (respond .busError s)
      else .next (accessUnderReset s)

/-- The platform drives `rst_n`: low puts every element at its reset value, and the cycle after the release
holds exactly those values (R300, R301). -/
def driveReset (level : Bool) (s : State) : State :=
  if level then (if s.rstN then s else { cfcReset s with rstN := true })
  else { cfcReset s with rstN := false }

/-- One step of one agent. While `rst_n` is low a port byte and a tick are ignored and nothing is
emitted (R300). -/
def act (e : Event) (s : State) : Host.Outcome State Fault Refusal :=
  match e with
  | .host a => hostAccess a s
  | .txReady => if s.rstN then txAccept s else .next (cfcReset s)
  | .rxArrive b => .next (if s.rstN then rxArrive b s else cfcReset s)
  | .tick => .next (if s.rstN then tick s else cfcReset s)
  | .rstN level => .next (driveReset level s)

/-- No agent acts: the CFC executes nothing on its own (R302; assumption log 2). -/
def quiet (s : State) : State := if s.rstN then s else cfcReset s

end Sys2Proof.Machine
end

