-- ==== Sys2Proof/Machine/Step.lean ====
section
/-! DEFINITION. One step of the machine: the agent that `pending` names next takes its step (00_scope.md R10). The
CFC has no program counter and fetches nothing (10_state.md R22): an instruction runs when the host writes it, so
`withFetchWord` puts that host access in front (assumption log 13). -/

namespace Sys2Proof.Machine

/-- The next agent's step, or none. -/
def step (s : State) : Host.Outcome State Fault Refusal :=
  match s.pending with
  | [] => .next (quiet s)
  | e :: es => act e { s with pending := es }

/-- The host access by which an instruction of the opcode table with bits `w` reaches the CFC: a `CMD` write for a
32-bit row, the command byte for an 8-bit row. -/
def fetchAccess (nbits w : Nat) : HostAccess :=
  if nbits ≤ 8 then .wire (BitVec.ofNat 8 w) else .write (.offset 0x000) .word (BitVec.ofNat 32 w)

/-- `s` with that access as the next step, `rst_n` released. -/
def State.withFetchWord (s : State) (nbits w : Nat) : State :=
  { s with rstN := true, pending := .host (fetchAccess nbits w) :: s.pending }

end Sys2Proof.Machine
end

