-- ==== Sys2Proof/Machine/HostProgram.lean ====
section
/-! DEFINITION. The host's programs and the scenario lines, as lists of agents' steps: the assembly of 30_encoding.md
R103 to R105, the cycle order of 60_exceptions.md R275, and the host procedures of 40_crc.md R140, 44_wire_commands.md
R250 and R251 and 42_rx_deserializer.md R201. -/

namespace Sys2Proof.Machine

/-- The host access that issues an instruction: one 32-bit write of its word to `CMD` (R90, R103); a wire command
byte by its own access. -/
def issue (i : Instr) : Event :=
  match encode i with
  | .wire b => .host (.wire b)
  | c => .host (.write (.offset 0x000) .word c.word)

/-- `wr NAME, imm32` (R103). -/
def writeLine (r : Reg) (v : Word) : Event := .host (.write (.offset r.offset) .word v)

/-- `rd NAME` (R103). -/
def readLine (r : Reg) : Event := .host (.read (.offset r.offset) .word)

/-- The mnemonics of R103; a wire command byte has none of its own and is written with `tx.cmd`. -/
def asmName : Instr → String
  | .nop => "nop"
  | .crcInit => "crc.init"
  | .crcByte _ => "crc.byte"
  | .crcPad4 => "crc.pad4"
  | .txStartCmd _ => "tx.cmd"
  | .txStartRaw => "tx.raw"
  | .txByte _ => "tx.byte"
  | .txSend => "tx.send"
  | .txAbort => "tx.abort"
  | .rxFrame => "rx.frame"
  | .rxByte => "rx.byte"
  | .rxAckFrame => "rx.ackframe"
  | .sreset => "sreset"
  | _ => "tx.cmd"

/-- The lines of a program: R103's host operations, R104's pseudo-instructions, R105's scenario lines. -/
inductive Line where
  | op (i : Instr)
  | wr (r : Reg) (v : Word)
  | rd (r : Reg)
  | crcBytes (bs : List Byte)
  | txFrame (c : Byte) (payload : List Byte)
  | txChunk (bs : List Byte)
  | clrStatus
  /-- `wait NAME, mask, val`, which the scenario ends at the read number `reads` (assumption log 16). -/
  | wait (r : Reg) (mask val : Word) (reads : Nat)
  | accept (n : Nat)
  | rx (bs : List Byte)
  | ticks (n : Nat)
deriving DecidableEq, Repr

/-- `tx.byte` for each byte of a body. -/
def bodyBytes (bs : List Byte) : List Event := bs.map fun b => issue (.txByte b)

/-- The steps a line stands for (R103 to R105). -/
def Line.events : Line → List Event
  | .op i => [issue i]
  | .wr r v => [writeLine r v]
  | .rd r => [readLine r]
  | .crcBytes bs => bs.map fun b => issue (.crcByte b)
  | .txFrame c payload => issue (.txStartCmd c) :: (bodyBytes payload ++ [issue .txSend])
  | .txChunk bs => issue .txStartRaw :: (bodyBytes bs ++ [issue .txSend])
  | .clrStatus => [writeLine .status 0x00073F00]
  | .wait r _ _ reads => List.replicate reads (readLine r)
  | .accept n => List.replicate n .txReady
  | .rx bs => bs.map .rxArrive
  | .ticks n => List.replicate n .tick

/-- The steps of a program, line after line. -/
def assemble (p : List Line) : List Event := p.flatMap Line.events

/-- Whether a `wait NAME, mask, val` is over: its last read gave `(value & mask) = val` (R104). -/
def waitMet (mask val : Word) (s : State) : Bool :=
  match s.resp with
  | .data v => v &&& mask == val
  | _ => false

/-- What the agents do in one clock cycle (R275, R300). -/
structure Cycle where
  rstN : Bool
  access : Option HostAccess
  txReady : Bool
  rxByte : Option Byte
  tick : Bool
deriving DecidableEq, Repr

/-- The steps of one cycle in the hardware's order: the host access, the sink's acceptance, the source's byte, the
tick (R275). -/
def Cycle.events (c : Cycle) : List Event :=
  .rstN c.rstN :: ((c.access.map Event.host).toList ++ (if c.txReady then [.txReady] else []) ++
    (c.rxByte.map Event.rxArrive).toList ++ (if c.tick then [.tick] else []))

/-- The host's computation of the image CRC with the CRC unit, over the transformed buffer (R140). -/
def imageProgram (size : Nat) (m : List Byte) : List Event :=
  issue .crcInit :: (imageBuffer size m).map fun b => issue (.crcByte b)

/-- The arm a host issues for an exchange (R250). -/
def armFor : Exchange → Instr
  | .ack => .rxByte
  | .ackThenBody => .rxAckFrame
  | .ackThenBulk => .rxByte

/-- Steps 1 to 3 of the two-phase exchange: build the frame, arm, send (R250, R304). -/
def exchangeProgram (c : Byte) (payload : List Byte) (x : Exchange) : List Event :=
  issue (.txStartCmd c) :: (bodyBytes payload ++ [issue (armFor x), issue .txSend])

/-- Steps 1 to 3 of the bulk transfer for one chunk (R251). -/
def chunkProgram (chunk : List Byte) : List Event :=
  issue .txStartRaw :: (bodyBytes chunk ++ [issue .rxByte, issue .txSend])

/-- The meaning of a finished receive (R201). -/
inductive RxOutcome where
  /-- `RX_FRAME`: a body was received. -/
  | body
  /-- `RX_BYTE`: the acknowledgment. -/
  | ack
  /-- Another byte than the acknowledgment: failure. -/
  | notAck
  /-- `RX_ACK_FRAME`: the acknowledgment, then a body. -/
  | ackBody
  /-- The deadline expired: failure. -/
  | timeout
  /-- `RX_ACK_FRAME`: the acknowledgment, then the deadline of the response expired. -/
  | ackThenTimeout
  /-- A combination R201 does not list. -/
  | unlisted
deriving DecidableEq, Repr

/-- R201's table, by the mode armed, as the host reads `STATUS` once `RX_STATE = IDLE`. -/
def rxOutcome (armed : RxMode) (s : State) : RxOutcome :=
  match armed, s.ev.rxDone, s.ev.rxTimeout, s.ackOk, s.rxMode with
  | .frame, true, false, false, .frame => .body
  | .frame, false, true, false, .frame => .timeout
  | .byte, true, false, true, .byte => .ack
  | .byte, true, false, false, .byte => .notAck
  | .byte, false, true, false, .byte => .timeout
  | .ackFrame, true, false, true, .frame => .ackBody
  | .ackFrame, true, false, false, .ackFrame => .notAck
  | .ackFrame, false, true, false, .ackFrame => .timeout
  | .ackFrame, false, true, true, .frame => .ackThenTimeout
  | _, _, _, _, _ => .unlisted

/-- The `RX_TMO` value for a deadline and a tick period in one unit: the deadline divided by the period, minus 1
(R303; assumption log 21). -/
def ticksOf (period deadline : ℚ) : Word := BitVec.ofNat 32 (⌊deadline / period⌋₊ - 1)

/-- The `RX_TMO` value for a deadline in microseconds (R303). -/
def deadlineTicks (deadline : ℚ) : Word := ticksOf Config.pTick deadline

/-- The source's reference ACK deadline, 1 second, in microseconds (R310). -/
def refAckDeadline : Nat := 1000000

/-- The source's reference inter-chunk delay, 100 ms, in microseconds; the host's, not the CFC's (R310). -/
def refChunkDelay : Nat := 100000

/-- The source's reference handshake delay, 500 ms, in microseconds; the host's, not the CFC's (R310). -/
def refHandshakeDelay : Nat := 500000

/-- The source's reference monitor poll, 5 seconds, in microseconds; the host's, not the CFC's (R310). -/
def refMonitorPoll : Nat := 5000000

end Sys2Proof.Machine
end

