-- ==== Sys2Proof/Safety.lean ====
section
/-! DEFINITION. What a safe run is: the invariant of the states a run reaches, the end of a run (70_reset_and_hazards.md
R312), a run without a refused command (93_implementation_defined.md I5, I6), and runs of several instructions or
steps. -/

namespace Sys2Proof.Machine

/-- Whether every index below `n` of a buffer has been written. -/
def Memory.filled (m : Memory) (n : Nat) : Bool := (List.range n).all fun i => (m.read i).isSome

/-- The invariant of the TX unit (R20, R25, R160 to R167). -/
structure TxInv (s : State) : Prop where
  bufWf : s.txBuf.wf = true
  cntBound : s.txCnt ≤ Config.pTxcap
  seqBound : s.txSeq.length ≤ Config.pTxcap + 5
  posBound : s.txPos ≤ s.txSeq.length
  bodyWritten : s.txBuf.filled s.txCnt = true
  /-- An open command frame begins with a command byte of the closed set (R25, R100). -/
  cmdFirst : s.txState ≠ .idle → s.txKind = .cmd →
    1 ≤ s.txCnt ∧ 1 ≤ (txBufByte s 0).toNat ∧ (txBufByte s 0).toNat ≤ 9
  openPos : s.txState = .opened → s.txPos = 0
  /-- While SENDING the frame is the one R164 fixes from the body, and it is not yet all accepted. -/
  sendingFrame : s.txState = .sending →
    s.txSeq = frameOf (txBody s) ∧ s.txPos < s.txSeq.length ∧
    s.txLen = lengthByte s.txCnt ∧ s.txCrc = paddedCrc (txBody s)
  /-- TX_DONE is 0 from a start to the completion (R161, R162, R167). -/
  notDone : s.txState ≠ .idle → s.ev.txDone = false

/-- The invariant of the RX unit (R20, R26, R190 to R199). -/
structure RxInv (s : State) : Prop where
  bufWf : s.rxBuf.wf = true
  bodyWritten : s.rxBuf.filled s.rxCnt = true
  cntBound : s.rxCnt ≤ s.rxLen.toNat
  /-- `rx_state = WAIT_BODY` occurs only with `rx_mode = FRAME`, and a body byte is still missing (R20, R26). -/
  waitBody : s.rxState = .waitBody → s.rxMode = .frame ∧ s.rxCnt < s.rxLen.toNat
  waitFirst : s.rxState = .waitFirst → s.rxCnt = 0 ∧ s.rxLen = 0
  /-- No acknowledgment stands before the acknowledgment byte (R191 to R193, R196). -/
  noAckYet : s.rxState ≠ .idle → s.rxMode ≠ .frame → s.ackOk = false
  /-- The outcome bits describe the current receive (R191 to R193, R199). -/
  noOutcome : s.rxState ≠ .idle → s.ev.rxDone = false ∧ s.ev.rxTimeout = false
  /-- A receive does not both complete and expire (R201). -/
  oneOutcome : ¬ (s.ev.rxDone = true ∧ s.ev.rxTimeout = true)

/-- The invariant of the machine. While `rst_n` is low every element holds its reset value (R300). -/
structure Inv (s : State) : Prop where
  tx : TxInv s
  rx : RxInv s
  underReset : s.rstN = false → s = cfcReset s

/-- Whether an agent's step is a host access. -/
def Event.isHost : Event → Bool
  | .host _ => true
  | _ => false

/-- The end of a run: the host has issued its last access, no frame is being emitted, no receive waits
(R312). -/
def runOver (s : State) : Bool :=
  !s.pending.any Event.isHost && s.txState != .sending && s.rxState == .idle

/-- No command of the run was refused: these bits are cleared only by the host or by reset (93 I5, I6). -/
def clean (s : State) : Bool := !s.ev.errOpc && !s.ev.errState && !s.ev.errArg && !s.ev.txOvf

/-- Run several instructions, stopping at the first that does not complete. -/
def execAll : List Instr → State → Host.Outcome State Fault Refusal
  | [], s => .next s
  | i :: is, s =>
    match exec i s with
    | .next t => execAll is t
    | .fault r => .fault r
    | .refused r => .refused r

/-- Let the agents take the given steps, and no other, from a state: as many steps of the machine. -/
def runSteps (es : List Event) (s : State) : Host.Outcome State Fault Refusal :=
  Sys2Proof.core.run es.length { s with pending := es ++ s.pending }

/-- The commands of the CRC unit (R93). -/
def isCrcUnit : Instr → Bool
  | .crcInit => true
  | .crcByte _ => true
  | .crcPad4 => true
  | _ => false

/-- The commands of the TX unit, the wire command bytes among them (R93, R240). -/
def isTxUnit : Instr → Bool
  | .txStartCmd _ => true
  | .txStartRaw => true
  | .txByte _ => true
  | .txSend => true
  | .txAbort => true
  | .getHelp => true
  | .getID => true
  | .getVersion => true
  | .eraseFlash => true
  | .flashApplication => true
  | .addressJump => true
  | .sayHi => true
  | .sayBye => true
  | .writeData => true
  | _ => false

/-- The arm commands of the RX unit (R93). -/
def isRxUnit : Instr → Bool
  | .rxFrame => true
  | .rxByte => true
  | .rxAckFrame => true
  | _ => false

/-- The nine wire command bytes and their values (R100). -/
def wireTable : List (Instr × Byte) :=
  [(.getHelp, 1), (.getID, 2), (.getVersion, 3), (.eraseFlash, 4), (.flashApplication, 5), (.addressJump, 6),
   (.sayHi, 7), (.sayBye, 8), (.writeData, 9)]

/-- Whether a step is one of the RX source or of the tick source. -/
def Event.isRxOrTick : Event → Bool
  | .rxArrive _ => true
  | .tick => true
  | _ => false

/-- Whether a byte completes the receive that waits for it (R190's rows into IDLE with RX_DONE, R195 to R197). -/
def completesReceive (b : Byte) (s : State) : Bool :=
  match s.rxState, s.rxMode with
  | .idle, _ => false
  | .waitFirst, .frame => b == 0
  | .waitFirst, .byte => true
  | .waitFirst, .ackFrame => b != 0x01
  | .waitBody, _ => s.rxCnt + 1 == s.rxLen.toNat

/-- Whether a step leaves a receive to the RX unit: an acceptance, a byte, a tick, a command of another unit, `NOP`, a
read in the window, or a write to `RX_TMO` or `IRQ_EN`. It is no arm, no reset and no write that acknowledges the outcome. -/
def keepsReceive : Event → Bool
  | .txReady => true
  | .rxArrive _ => true
  | .tick => true
  | .rstN level => level
  | .host (.wire _) => true
  | .host (.read l _) => l.offset?.isSome
  | .host (.write l size v) =>
    match l.offset?.bind (accessedReg · size) with
    | some .cmd =>
      match decodeCmd v with
      | .ok i => isTxUnit i || isCrcUnit i || i == .nop
      | .error _ => true
    | some .status => !v.getLsbD 9 && !v.getLsbD 10
    | _ => l.offset?.isSome

/-- How many ticks of a run count against the deadline: those that come with the TX unit IDLE (R198). -/
def countedTicks : List Event → State → Nat
  | [], _ => 0
  | e :: es, s =>
    (if e = .tick ∧ s.txState = .idle then 1 else 0) +
      (match act e s with
        | .next t => countedTicks es t
        | _ => 0)

/-- The bytes the RX source delivers in a list of steps, in order. -/
def arrivals : List Event → List Byte
  | [] => []
  | .rxArrive b :: es => b :: arrivals es
  | _ :: es => arrivals es

/-- How many ticks a list of steps holds. -/
def tickCount : List Event → Nat
  | [] => 0
  | .tick :: es => tickCount es + 1
  | _ :: es => tickCount es

end Sys2Proof.Machine
end

