-- ==== Sys2Proof/Certificates/Slice0/Obligations.lean ====
section
/-! DEFINITION. The statements for the provers. Each docstring names the rule of spec/ it formalises and, where it rests
on a choice of the model's, the entry of the assumption log. A statement whose conclusion is an equation
`exec i s = .next …` is that instruction's completion statement, and the record update in it is its frame: every field it
does not name is unchanged. -/

open Sys2Proof Sys2Proof.Machine

/-! ## Reset and the host's registers -/

/-- 10_state.md R43: what every element and every register holds after reset. Of what R43 leaves unspecified (the bytes
of the two buffers) nothing is said. -/
def Obligations.ResetHoldsTheResetValues : Prop :=
  let r := State.reset
  (r.crcAcc = 0xFFFFFFFF ∧ r.crcCnt = 0 ∧ r.txState = .idle ∧ r.txKind = .cmd ∧ r.txCnt = 0 ∧ r.txSeq = [] ∧ r.txPos = 0 ∧ r.txLen = 0 ∧ r.txCrc = 0 ∧ r.rxState = .idle ∧ r.rxMode = .frame ∧ r.rxCnt = 0 ∧ r.rxLen = 0 ∧ r.rxTmo = Config.pTmoReset ∧ r.rxCtr = 0 ∧
    r.ackOk = false ∧ (∀ b, r.ev.get b = false) ∧ (∀ b, r.irqEn.get b = false) ∧ irq r = false) ∧
  (regRead r .status = 0 ∧ regRead r .irqEn = 0 ∧ regRead r .rxTmo = Config.pTmoReset ∧
    regRead r .crcAcc = 0xFFFFFFFF ∧ regRead r .crcCnt = 0 ∧ regRead r .txCnt = 0 ∧ regRead r .txPos = 0 ∧
    regRead r .txLen = 0 ∧ regRead r .txCrc = 0 ∧ regRead r .rxLen = 0 ∧ regRead r .rxCnt = 0)

/-- 10_state.md R29: every bit of `STATUS` as the host reads it; the codes 3 of RX_STATE and RX_MODE are never
read, and a reserved bit reads 0. -/
def Obligations.StatusShowsUnitStatesAndEvents : Prop :=
  ∀ s : State,
    (regRead s .status).getLsbD 0 = (s.txState == .sending) ∧
    (regRead s .status).getLsbD 1 = (s.txState == .opened) ∧
    (regRead s .status).extractLsb' 2 2 =
      (match s.rxState with | .idle => 0#2 | .waitFirst => 1#2 | .waitBody => 2#2) ∧
    (regRead s .status).extractLsb' 4 2 =
      (match s.rxMode with | .frame => 0#2 | .byte => 1#2 | .ackFrame => 2#2) ∧
    (regRead s .status).getLsbD 6 = s.ackOk ∧
    (regRead s .status).getLsbD 8 = s.ev.txDone ∧
    (regRead s .status).getLsbD 9 = s.ev.rxDone ∧
    (regRead s .status).getLsbD 10 = s.ev.rxTimeout ∧
    (regRead s .status).getLsbD 11 = s.ev.rxDrop ∧
    (regRead s .status).getLsbD 12 = s.ev.txOvf ∧
    (regRead s .status).getLsbD 13 = s.ev.lwrap ∧
    (regRead s .status).getLsbD 16 = s.ev.errOpc ∧
    (regRead s .status).getLsbD 17 = s.ev.errState ∧
    (regRead s .status).getLsbD 18 = s.ev.errArg ∧
    ∀ i, i ∈ [7, 14, 15] ∨ 19 ≤ i → (regRead s .status).getLsbD i = false

/-- 20_memory.md R62 with 10_state.md R28 and R30 to R39: the step of a 32-bit read at each mapped offset answers the
host the register's value and changes nothing else. -/
def Obligations.ReadAnswersTheRegisterAtItsOffset : Prop :=
  ∀ (s : State) (es : List Event) (off : Nat) (v : Word),
    (off, v) ∈ [(0x000, 0#32), (0x004, statusWord s), (0x008, s.irqEn.toWord), (0x00C, s.rxTmo), (0x010, s.crcAcc),
      (0x014, s.crcCnt), (0x018, BitVec.ofNat 32 s.txCnt), (0x01C, BitVec.ofNat 32 s.txPos),
      (0x020, s.txLen.setWidth 32), (0x024, s.txCrc), (0x028, s.rxLen.setWidth 32),
      (0x02C, BitVec.ofNat 32 s.rxCnt)] →
    s.rstN = true → s.pending = .host (.read (.offset off) .word) :: es →
    step s = .next { s with pending := es, resp := .data v }

/-- 10_state.md R40 and 20_memory.md R67: body byte `4k + j` stands in lane `j` of the word at `0x100 + 4k`, exactly as
received below `rx_cnt` and free at and above it; the read changes no element. The draw counter is the model's own
(assumption log 5). -/
def Obligations.RxBufReadShowsReceivedBytes : Prop :=
  ∀ (s : State) (es : List Event) (k : Nat),
    k ≤ 63 → s.rstN = true → s.pending = .host (.read (.offset (0x100 + 4 * k)) .word) :: es →
    ∃ v : Word,
      step s = .next { s with pending := es, resp := .data v, draws := s.draws + 4 } ∧
      ∀ j, j < 4 →
        (∀ b, 4 * k + j < s.rxCnt → s.rxBuf.read (4 * k + j) = some b → v.extractLsb' (8 * j) 8 = b) ∧
        (s.rxCnt ≤ 4 * k + j → v.extractLsb' (8 * j) 8 = Config.freeRxByte (s.draws + j))

/-- 20_memory.md R63 and R64: a sub-word, misaligned or unmapped access in the window is answered with a bus error and
changes no element. That the machine goes on is the model's reading (assumption log 8). -/
def Obligations.BadAccessIsABusErrorWithoutEffect : Prop :=
  ∀ (s : State) (es : List Event) (off : Nat) (size : AccessSize) (v : Word),
    s.rstN = true → off < 0x200 →
    (size ≠ .word ∨ off % 4 ≠ 0 ∨ (0x030 ≤ off ∧ off < 0x100)) →
    (s.pending = .host (.read (.offset off) size) :: es ∨ s.pending = .host (.write (.offset off) size v) :: es) →
    step s = .next { s with pending := es, resp := .busError }

/-- 20_memory.md R61: the window spans `P_BASE` to `P_BASE + 0x1FF` and an offset is `addr - P_BASE`; an access to any
other host address does not reach the CFC, which the model makes a fault (assumption log 9). -/
def Obligations.WindowAddressesAreOffsetsFromTheBase : Prop :=
  Config.pBase % 0x200 = 0 ∧
  ∀ (s : State) (addr : Nat) (size : AccessSize) (v : Word),
    (Config.pBase ≤ addr → addr ≤ Config.pBase + 0x1FF →
      act (.host (.read (.address addr) size)) s =
        act (.host (.read (.offset (addr - Config.pBase)) size)) s ∧
      act (.host (.write (.address addr) size v)) s =
        act (.host (.write (.offset (addr - Config.pBase)) size v)) s) ∧
    ((addr < Config.pBase ∨ Config.pBase + 0x1FF < addr) →
      act (.host (.read (.address addr) size)) s = .fault (.outsideWindow (.address addr)) ∧
      act (.host (.write (.address addr) size v)) s = .fault (.outsideWindow (.address addr)))

/-- 20_memory.md R66: a 32-bit write to a read-only register, `RX_BUF` among them, is ignored without error. -/
def Obligations.WriteToReadOnlyRegisterIsIgnored : Prop :=
  ∀ (s : State) (es : List Event) (off : Nat) (v : Word),
    s.rstN = true → off % 4 = 0 → ((0x010 ≤ off ∧ off ≤ 0x02C) ∨ (0x100 ≤ off ∧ off ≤ 0x1FC)) →
    s.pending = .host (.write (.offset off) .word v) :: es →
    step s = .next { s with pending := es, resp := .written }

/-- 43_control.md R222: a write to `STATUS` clears the event bits written as 1 and no other bit of it; nothing else
changes. An event that another agent's step of the same cycle raises comes after the write and stays set: TX_DONE, RX_DONE,
RX_TIMEOUT and RX_DROP, the four that no host access raises. The steps of a cycle are `Cycle.events` (assumption
log 12). -/
def Obligations.StatusWriteClearsTheNamedEvents : Prop :=
  ∀ (s : State) (v : Word), s.rstN = true →
    (∀ es : List Event, s.pending = .host (.write (.offset 0x004) .word v) :: es →
      ∃ t : State,
        step s = .next t ∧
        t = { s with pending := es, resp := .written, ev := t.ev } ∧
        (∀ b, t.ev.get b = (s.ev.get b && !v.getLsbD b.position)) ∧
        regRead t .status = regRead s .status &&& ~~~(v &&& 0x00073F00#32) ∧
        (v = 0 → t.ev = s.ev) ∧ (v = 0x00073F00#32 → t.ev = Events.none)) ∧
    let clearing := Cycle.mk true (some (.write (.offset 0x004) .word v))
    (∀ b : Byte, s.rxState = .idle →
      ∃ u, runSteps (clearing false (some b) false).events s = .next u ∧ u.ev.rxDrop = true) ∧
    (∀ b : Byte, completesReceive b s = true →
      ∃ u, runSteps (clearing false (some b) false).events s = .next u ∧ u.ev.rxDone = true) ∧
    (s.txState = .sending → s.txPos + 1 = s.txSeq.length →
      ∃ u, runSteps (clearing true none false).events s = .next u ∧ u.ev.txDone = true) ∧
    (s.rxState ≠ .idle → s.txState = .idle → s.rxCtr = 0 →
      ∃ u, runSteps (clearing false none true).events s = .next u ∧ u.ev.rxTimeout = true)

/-- 43_control.md R223 with 10_state.md R30: a write to `IRQ_EN` stores `v & 0x00073F00`, and the interrupt output follows
at once. -/
def Obligations.IrqEnableWriteStoresTheEventPositions : Prop :=
  ∀ (s : State) (es : List Event) (v : Word),
    s.rstN = true → s.pending = .host (.write (.offset 0x008) .word v) :: es →
    ∃ t : State,
      step s = .next t ∧
      t = { s with pending := es, resp := .written, irqEn := t.irqEn } ∧
      regRead t .irqEn = v &&& 0x00073F00#32 ∧
      (irq t = true ↔ regRead s .status &&& (v &&& 0x00073F00#32) ≠ 0)

/-- 43_control.md R224 and 70_reset_and_hazards.md R308: a write to `RX_TMO` stores all 32 bits in every state and
leaves the countdown that is loaded; the next arm loads the new value. -/
def Obligations.DeadlineWriteLeavesTheLoadedCountdown : Prop :=
  ∀ (s : State) (es : List Event) (v : Word),
    s.rstN = true → s.pending = .host (.write (.offset 0x00C) .word v) :: es →
    step s = .next { s with pending := es, resp := .written, rxTmo := v } ∧
    (s.rxState = .idle → ∀ m, m ∈ [Instr.rxFrame, .rxByte, .rxAckFrame] →
      ∃ t u, runSteps [writeLine .rxTmo v] s = .next t ∧ exec m t = .next u ∧ u.rxCtr = v)

/-- 60_exceptions.md R272: the interrupt output is the OR of the event bits that are set and enabled. -/
def Obligations.IrqIsAnyEnabledEvent : Prop :=
  ∀ s : State, s.rstN = true →
    (irq s = true ↔ ∃ b : EventBit, s.ev.get b = true ∧ s.irqEn.get b = true) ∧
    (irq s = true ↔ regRead s .status &&& regRead s .irqEn ≠ 0)

/-! ## Encoding and decoding -/

/-- 30_encoding.md R90, R93 and R100: words written out from the opcode map decode to the instructions they stand
for. -/
def Obligations.WordsOfTheOpcodeMapDecode : Prop :=
  decodeCmd 0x00000000#32 = .ok .nop ∧ decodeCmd 0x00003102#32 = .ok (.crcByte 0x31) ∧
  decodeCmd 0x00000003#32 = .ok .crcPad4 ∧ decodeCmd 0x00000210#32 = .ok (.txStartCmd 2) ∧
  decodeCmd 0x00001F12#32 = .ok (.txByte 0x1F) ∧ decodeCmd 0x00000022#32 = .ok .rxAckFrame ∧
  decodeCmd 0x0000005A#32 = .ok .sreset ∧ decodeWire 0x04#8 = .ok .eraseFlash ∧
  decodeCmd 0x0000FF00#32 = .error .nonzeroArg ∧ decodeCmd 0x00010001#32 = .error .nonzeroRsv ∧
  decodeCmd 0x00000004#32 = .error .reservedOpc

/-- 30_encoding.md R90 to R93, R67 and R100: the bytes of every instruction's encoding decode to that instruction, with
its operand at every value. -/
def Obligations.DecodingTheEncodingGivesTheInstruction : Prop :=
  ∀ i : Instr, decodeBytes (encode i).bytes = .ok i ∧
    ((encode i).bytes.length = 4 → decodeCmd (encodeWord i) = .ok i)

/-- 30_encoding.md R90 and R93: an instruction has one encoding. Bytes that decode to an instruction are the bytes of its
encoding, so no bit of a word is dropped. -/
def Obligations.DecodedBytesAreTheEncoding : Prop :=
  ∀ (bs : List Byte) (i : Instr), decodeBytes bs = .ok i → (encode i).bytes = bs

/-- 30_encoding.md R92 and R94: a word decodes exactly when RSV is 0, OPC is in the table and a command of form "none" has
a zero ARG8; else the first of the three checks that fails is the reason. -/
def Obligations.WordDecodesExactlyWhenWellFormed : Prop :=
  ∀ w : Word,
    ((∃ i, decodeCmd w = .ok i) ↔ (Code.ofWord w).wf = true) ∧
    (w.extractLsb' 16 16 ≠ 0 → decodeCmd w = .error .nonzeroRsv) ∧
    (w.extractLsb' 16 16 = 0 →
      w.extractLsb' 0 8 ∉ [0x00#8, 0x01#8, 0x02#8, 0x03#8, 0x10#8, 0x11#8, 0x12#8, 0x13#8, 0x14#8, 0x20#8, 0x21#8,
        0x22#8, 0x5A#8] →
      decodeCmd w = .error .reservedOpc) ∧
    (w.extractLsb' 16 16 = 0 →
      w.extractLsb' 0 8 ∈ [0x00#8, 0x01#8, 0x03#8, 0x11#8, 0x13#8, 0x14#8, 0x20#8, 0x21#8, 0x22#8, 0x5A#8] →
      w.extractLsb' 8 8 ≠ 0 → decodeCmd w = .error .nonzeroArg) ∧
    (w.extractLsb' 16 16 = 0 → w.extractLsb' 0 8 ∈ [0x02#8, 0x10#8, 0x12#8] →
      decodeCmd w = .ok (match (w.extractLsb' 0 8).toNat with
        | 0x02 => .crcByte (w.extractLsb' 8 8)
        | 0x10 => .txStartCmd (w.extractLsb' 8 8)
        | _ => .txByte (w.extractLsb' 8 8)))

/-- 30_encoding.md R92 with 20_memory.md R69: the step of a `CMD` write of a word that decodes to an instruction is that
instruction's `exec`, in one step, the access having completed; the step of a wire command byte likewise (assumption log
3). -/
def Obligations.StepRunsTheDecodedInstruction : Prop :=
  ∀ (s : State) (es : List Event) (i : Instr), s.rstN = true →
    (∀ w, decodeCmd w = .ok i → s.pending = .host (.write (.offset 0x000) .word w) :: es →
      step s = exec i { s with pending := es, resp := .written }) ∧
    (∀ b, decodeWire b = .ok i → s.pending = .host (.wire b) :: es →
      step s = exec i { s with pending := es, resp := .written })

/-- 30_encoding.md R92 and R94: a `CMD` write of a word that does not decode sets ERR_OPC and changes nothing else. -/
def Obligations.UndecodableWordRaisesErrOpcOnly : Prop :=
  ∀ (s : State) (es : List Event) (w : Word) (e : DecodeError),
    s.rstN = true → decodeCmd w = .error e → s.pending = .host (.write (.offset 0x000) .word w) :: es →
    step s = .next { s with pending := es, resp := .written, ev := { s.ev with errOpc := true } }

/-- 44_wire_commands.md R240: a wire command byte `b` is sent by `TX_START_CMD b`, for every byte. That the two are one
access is the model's reading (assumption log 3). -/
def Obligations.WireByteIsTheStartCommandOfThatByte : Prop :=
  ∀ (s : State) (b : Byte),
    act (.host (.wire b)) s = act (.host (.write (.offset 0x000) .word (encodeWord (.txStartCmd b)))) s

/-! ## Control commands -/

/-- 43_control.md R220: `NOP` is the word 0 and has no effect; every other word with OPC 0 raises ERR_OPC. -/
def Obligations.NopHasNoEffect : Prop :=
  encodeWord .nop = 0x00000000#32 ∧
  ∀ s : State, exec .nop s = .next s ∧
    ∀ w : Word, w.extractLsb' 0 8 = 0 → w ≠ 0 →
      writeCmd w s = .next { s with ev := { s.ev with errOpc := true } }

/-- 43_control.md R221: `SRESET` puts every element at its reset value in one step, in every state; what the agents
outside the CFC hold is unchanged. Its effect on the elements is that of `rst_n`. That both buffers list no byte afterwards
is the model's form (assumption log 7). -/
def Obligations.SresetPutsEveryElementAtReset : Prop :=
  encodeWord .sreset = 0x0000005A#32 ∧
  ∀ s : State,
    exec .sreset s = .next { State.reset with
      rstN := s.rstN, pending := s.pending, sink := s.sink, resp := s.resp, draws := s.draws } ∧
    ∃ t u, exec .sreset s = .next t ∧ act (.rstN false) s = .next u ∧ u = { t with rstN := false } ∧
      regRead t .status = 0

/-! ## CRC unit -/

/-- 40_crc.md R130 to R132: `crc_step` puts the byte into the top 8 bits and does eight rounds; `crc32` folds the bytes
in order from `0xFFFFFFFF`; `crc_step` is linear over GF(2) in the pair. -/
def Obligations.CrcFunctionIsTheSourcesAndLinear : Prop :=
  (∀ (acc : Word) (b : Byte),
    crcStep acc b =
      (fun a : Word => if a.getLsbD 31 then (a <<< 1) ^^^ 0x04C11DB7#32 else a <<< 1)^[8]
        (acc ^^^ (b.setWidth 32 <<< 24))) ∧
  (∀ s : List Byte, crc32 s = s.foldl crcStep 0xFFFFFFFF#32) ∧
  (∀ (a a' : Word) (b b' : Byte), crcStep (a ^^^ a') (b ^^^ b') = crcStep a b ^^^ crcStep a' b') ∧
  crcStep 0xFFFFFFFF 0x02 = 0x478A84DA#32 ∧ crcStep 0 0 = 0 ∧ crcStep 0 0x01 = 0x04C11DB7#32 ∧
  crc32 [] = 0xFFFFFFFF#32 ∧ crc32 [0xFF] = 0xFFFFFF00#32 ∧
  crc32 [0x31, 0x32, 0x33, 0x34, 0x35, 0x36, 0x37, 0x38, 0x39] = 0x0376E6E7#32

/-- 40_crc.md R133: `CRC_INIT`, in every state of every unit. -/
def Obligations.CrcInitStartsAComputation : Prop :=
  encodeWord .crcInit = 0x00000001#32 ∧
  ∀ s : State,
    exec .crcInit s = .next { s with crcAcc := 0xFFFFFFFF#32, crcCnt := 0 } ∧
    execAll [.crcInit, .crcInit] s = exec .crcInit s

/-- 40_crc.md section 2 (`CRC_BYTE`): one byte folded and counted, in every state; the count wraps; chaining two bytes is
folding the sequence. -/
def Obligations.CrcByteFoldsOneByte : Prop :=
  ∀ (s : State) (b c : Byte),
    exec (.crcByte b) s = .next { s with crcAcc := crcStep s.crcAcc b, crcCnt := s.crcCnt + 1 } ∧
    (s.crcCnt = 0xFFFFFFFF#32 → ∃ t, exec (.crcByte b) s = .next t ∧ t.crcCnt = 0) ∧
    execAll [.crcByte b, .crcByte c] s =
      .next { s with crcAcc := crcFold s.crcAcc [b, c], crcCnt := s.crcCnt + 2 }

/-- 40_crc.md R135: `CRC_PAD4` folds `(4 - crc_cnt[1:0]) mod 4` zero bytes; at a multiple of 4 it does nothing, and
issuing it twice equals issuing it once. -/
def Obligations.CrcPadFoldsZerosToAMultipleOfFour : Prop :=
  encodeWord .crcPad4 = 0x00000003#32 ∧
  (∀ s : State,
    exec .crcPad4 s = .next { s with
      crcAcc := crcFold s.crcAcc (List.replicate ((4 - s.crcCnt.toNat % 4) % 4) 0x00#8)
      crcCnt := s.crcCnt + BitVec.ofNat 32 ((4 - s.crcCnt.toNat % 4) % 4) } ∧
    (s.crcCnt.toNat % 4 = 0 → exec .crcPad4 s = .next s) ∧
    execAll [.crcPad4, .crcPad4] s = exec .crcPad4 s) ∧
  execAll [.crcInit, .crcByte 0x02, .crcPad4] State.reset =
    .next { State.reset with crcAcc := 0x7B1EF5A2#32, crcCnt := 4 }

/-- 40_crc.md R136: after `CRC_INIT` and a byte for each of `bs`, with any commands of the other units between them,
`CRC_ACC` reads `crc32(bs)` and `CRC_CNT` the count; `CRC_PAD4` then gives the CRC of the zero-padded sequence. -/
def Obligations.CrcUnitComputesCrc32 : Prop :=
  ∀ (s : State) (is : List Instr) (bs : List Byte),
    is.filter isCrcUnit = bs.map .crcByte → .sreset ∉ is →
    ∃ t u, execAll (.crcInit :: is) s = .next t ∧
      regRead t .crcAcc = crc32 bs ∧ regRead t .crcCnt = BitVec.ofNat 32 bs.length ∧
      exec .crcPad4 t = .next u ∧
      regRead u .crcAcc = crc32 (bs ++ List.replicate ((4 - bs.length % 4) % 4) 0x00#8) ∧
      regRead u .crcCnt = BitVec.ofNat 32 (bs.length + (4 - bs.length % 4) % 4)

/-- 40_crc.md R138: `append_crc` adds four bytes, which read as little-endian are the CRC of the zero-padded
data. -/
def Obligations.AppendCrcAddsTheCrcOfThePaddedData : Prop :=
  ∀ d : List Byte,
    (appendCrc d).length = d.length + 4 ∧ (appendCrc d).take d.length = d ∧
    ∃ e0 e1 e2 e3 : Byte, (appendCrc d).drop d.length = [e0, e1, e2, e3] ∧
      e3 ++ (e2 ++ (e1 ++ e0)) = crc32 (d ++ List.replicate ((4 - d.length % 4) % 4) 0x00#8)

/-- 40_crc.md R141: a command of the CRC unit writes nothing but `crc_acc` and `crc_cnt` and reads nothing else; a command
of the TX unit neither reads nor writes them; so CRC commands may be interleaved with frame assembly, and with the
emission of a byte, in any order. -/
def Obligations.CrcUnitAndSerializerAreIndependent : Prop :=
  ∀ (i j : Instr) (s : State), isCrcUnit i = true → isTxUnit j = true →
    execAll [i, j] s = execAll [j, i] s ∧
    (∀ t u : State, exec i s = .next t → txAccept s = .next u →
      ∃ v, txAccept t = .next v ∧ exec i u = .next v) ∧
    (∀ s' : State, s'.crcAcc = s.crcAcc → s'.crcCnt = s.crcCnt →
      ∃ t, exec i s = .next t ∧ exec i s' = .next { s' with crcAcc := t.crcAcc, crcCnt := t.crcCnt }) ∧
    (∀ a c : Word, ∃ t, exec j s = .next t ∧ t.crcAcc = s.crcAcc ∧ t.crcCnt = s.crcCnt ∧
      exec j { s with crcAcc := a, crcCnt := c } = .next { t with crcAcc := a, crcCnt := c })

/-- 40_crc.md R139: the transformed buffer has the image padded with `0xFF` and the bytes of each word swapped; its
CRC is the image CRC; a longer image is refused. -/
def Obligations.ImageCrcIsTheCrcOfTheSwappedImage : Prop :=
  (∀ m, imageCrc m = imageCrcFor (Config.pAppSizeKb * 1024) m) ∧
  ∀ (size : Nat) (m : List Byte), size % 4 = 0 →
    (m.length ≤ size →
      (imageBuffer size m).length = size ∧
      (∀ k j, k < size / 4 → j < 4 →
        (imageBuffer size m)[4 * k + j]? = (m ++ List.replicate (size - m.length) 0xFF#8)[4 * k + (3 - j)]?) ∧
      imageCrcFor size m = .ok (crc32 (imageBuffer size m))) ∧
    (size < m.length → imageCrcFor size m = .error .imageTooLong)

/-- 40_crc.md R140: the host's procedure over the CRC unit ends with `CRC_ACC` equal to the image CRC and `CRC_CNT` equal to
the size, and changes nothing else. -/
def Obligations.HostProcedureComputesTheImageCrc : Prop :=
  ∀ (s : State) (size : Nat) (m : List Byte), s.rstN = true → size % 4 = 0 → m.length ≤ size →
    ∃ t, runSteps (imageProgram size m) s = .next t ∧
      imageCrcFor size m = .ok (regRead t .crcAcc) ∧ regRead t .crcCnt = BitVec.ofNat 32 size ∧
      t = { s with crcAcc := t.crcAcc, crcCnt := t.crcCnt, resp := .written }

/-! ## TX unit -/

/-- 41_tx_serializer.md R161 with 60_exceptions.md R274: `TX_START_CMD`. -/
def Obligations.StartCommandOpensACommandFrame : Prop :=
  ∀ (s : State) (c : Byte),
    encodeWord (.txStartCmd c) = 0x0000#16 ++ (c ++ 0x10#8) ∧
    (s.txState = .sending →
      exec (.txStartCmd c) s = .next { s with ev := { s.ev with errState := true } }) ∧
    (s.txState ≠ .sending → c.toNat < 1 ∨ 9 < c.toNat →
      exec (.txStartCmd c) s = .next { s with ev := { s.ev with errArg := true } }) ∧
    (s.txState ≠ .sending → 1 ≤ c.toNat → c.toNat ≤ 9 →
      exec (.txStartCmd c) s = .next { s with
        txKind := .cmd, txBuf := s.txBuf.write 0 c, txCnt := 1, txPos := 0, txState := .opened
        ev := { s.ev with txDone := false } } ∧
      ∃ t, exec (.txStartCmd c) s = .next t ∧ txBody t = [c] ∧ t.txBuf.read 0 = some c ∧
        ∀ i, i ≠ 0 → t.txBuf.read i = s.txBuf.read i)

/-- 41_tx_serializer.md R162: `TX_START_RAW`. -/
def Obligations.StartRawOpensARawFrame : Prop :=
  encodeWord .txStartRaw = 0x00000011#32 ∧
  ∀ s : State,
    (s.txState = .sending → exec .txStartRaw s = .next { s with ev := { s.ev with errState := true } }) ∧
    (s.txState ≠ .sending →
      exec .txStartRaw s = .next { s with
        txKind := .raw, txCnt := 0, txPos := 0, txState := .opened, ev := { s.ev with txDone := false } })

/-- 41_tx_serializer.md R163: `TX_BYTE` puts the byte at the end of the body; a full buffer discards the frame. -/
def Obligations.BodyByteIsAppendedOrOverflows : Prop :=
  ∀ (s : State) (b : Byte),
    encodeWord (.txByte b) = 0x0000#16 ++ (b ++ 0x12#8) ∧
    (s.txState ≠ .opened → exec (.txByte b) s = .next { s with ev := { s.ev with errState := true } }) ∧
    (s.txState = .opened → s.txCnt = Config.pTxcap →
      exec (.txByte b) s =
        .next { s with txState := .idle, txCnt := 0, ev := { s.ev with txOvf := true } }) ∧
    (s.txState = .opened → s.txCnt ≠ Config.pTxcap →
      ∃ t, exec (.txByte b) s = .next t ∧ t = { s with txBuf := t.txBuf, txCnt := s.txCnt + 1 } ∧
        txBody t = txBody s ++ [b] ∧ t.txBuf.read s.txCnt = some b ∧
        ∀ i, i ≠ s.txCnt → t.txBuf.read i = s.txBuf.read i)

/-- 41_tx_serializer.md R164 with 30_encoding.md R98: `TX_SEND` fixes the frame of the body; the length byte wraps above
251 bytes and LWRAP records it. -/
def Obligations.SendFixesTheFrameOfTheBody : Prop :=
  encodeWord .txSend = 0x00000013#32 ∧
  ∀ s : State,
    (s.txState ≠ .opened → exec .txSend s = .next { s with ev := { s.ev with errState := true } }) ∧
    (s.txState = .opened →
      ∃ c : Word, c = crc32 (txBody s ++ List.replicate ((4 - s.txCnt % 4) % 4) 0x00#8) ∧
        exec .txSend s = .next { s with
          txLen := BitVec.ofNat 8 (s.txCnt + 4)
          txCrc := c
          txSeq := [BitVec.ofNat 8 (s.txCnt + 4)] ++ txBody s ++
            [c.extractLsb' 0 8, c.extractLsb' 8 8, c.extractLsb' 16 8, c.extractLsb' 24 8]
          txPos := 0
          txState := .sending
          ev := { s.ev with lwrap := s.ev.lwrap || decide (s.txCnt + 4 > 255) } }) ∧
    (s.txState = .opened → s.txCnt = 0 →
      ∃ t, exec .txSend s = .next t ∧ t.txSeq = [0x04#8, 0xFF#8, 0xFF#8, 0xFF#8, 0xFF#8]) ∧
    (s.txState = .opened → s.txCnt = 251 →
      ∃ t, exec .txSend s = .next t ∧ t.txLen = 255 ∧ t.ev.lwrap = s.ev.lwrap) ∧
    (s.txState = .opened → s.txCnt = 252 →
      ∃ t, exec .txSend s = .next t ∧ t.txLen = 0 ∧ t.ev.lwrap = true) ∧
    (s.txState = .opened → s.txCnt = 256 →
      ∃ t, exec .txSend s = .next t ∧ t.txLen = 4 ∧ t.ev.lwrap = true)

/-- 41_tx_serializer.md R165: `TX_ABORT` discards an open frame, does nothing in IDLE and is refused while SENDING. -/
def Obligations.AbortDiscardsOnlyAnOpenFrame : Prop :=
  encodeWord .txAbort = 0x00000014#32 ∧
  ∀ s : State,
    (s.txState = .sending → exec .txAbort s = .next { s with ev := { s.ev with errState := true } }) ∧
    (s.txState = .opened → exec .txAbort s = .next { s with txState := .idle, txCnt := 0 }) ∧
    (s.txState = .idle → exec .txAbort s = .next s) ∧
    execAll [.txAbort, .txAbort] s = exec .txAbort s

/-- 41_tx_serializer.md R160 and R165: while a frame is being sent no command but `SRESET` moves the unit, its frame, its
position or what has left the port; a TX command only sets ERR_STATE. -/
def Obligations.NoCommandCutsAFrameShort : Prop :=
  ∀ (i : Instr) (s : State), s.txState = .sending → i ≠ .sreset →
    ∃ t, exec i s = .next t ∧ t.txState = .sending ∧ t.txSeq = s.txSeq ∧ t.txPos = s.txPos ∧ t.sink = s.sink ∧
      t.txLen = s.txLen ∧ t.txCrc = s.txCrc ∧ t.txCnt = s.txCnt ∧
      (isTxUnit i = true → t = { s with ev := { s.ev with errState := true } })

/-- 41_tx_serializer.md R166 and R167 with 20_memory.md R75: each acceptance moves `tx_seq[tx_pos]` to the sink; the last
one completes the frame in the same step; with `tx_valid = 0` nothing moves. -/
def Obligations.SinkAcceptsTheFrameByteByByte : Prop :=
  ∀ (s : State) (es : List Event), s.rstN = true → s.pending = .txReady :: es →
    (s.txState ≠ .sending → step s = .next { s with pending := es }) ∧
    (∀ b, s.txState = .sending → s.txSeq[s.txPos]? = some b → s.txPos + 1 < s.txSeq.length →
      txData s = some b ∧
      step s = .next { s with pending := es, sink := s.sink ++ [b], txPos := s.txPos + 1 }) ∧
    (∀ b, s.txState = .sending → s.txSeq[s.txPos]? = some b → s.txPos + 1 = s.txSeq.length →
      txData s = some b ∧
      step s = .next { s with
        pending := es, sink := s.sink ++ [b], txPos := s.txPos + 1, txState := .idle
        ev := { s.ev with txDone := true } })

/-- 41_tx_serializer.md R166 and R167: as many acceptances as bytes remain complete the frame: the sink has seen the rest
of it in order, TX_DONE is set and nothing else has changed. -/
def Obligations.EnoughAcceptancesCompleteTheFrame : Prop :=
  ∀ s : State, s.rstN = true → s.txState = .sending → s.txPos < s.txSeq.length →
    runSteps (List.replicate (s.txSeq.length - s.txPos) .txReady) s =
      .next { s with
        sink := s.sink ++ s.txSeq.drop s.txPos, txPos := s.txSeq.length, txState := .idle
        ev := { s.ev with txDone := true } }

/-- 41_tx_serializer.md R168: the commands of a frame, then an acceptance for each of its bytes, make the sink see exactly
the source's `encode(c, p)`, or the chunk frame for a raw body; ERR_OPC, ERR_STATE, ERR_ARG and TX_OVF, the CRC unit and
the RX unit are untouched. -/
def Obligations.SerializerMeetsTheSourcesEncode : Prop :=
  ∀ (s : State) (p : List Byte), s.rstN = true → s.txState ≠ .sending →
    (∀ c : Byte, 1 ≤ c.toNat → c.toNat ≤ 9 → p.length + 1 ≤ Config.pTxcap →
      ∃ t, runSteps ((Line.txFrame c p).events ++ List.replicate (p.length + 6) .txReady) s = .next t ∧
        t.sink = s.sink ++ (BitVec.ofNat 8 (1 + p.length + 4) :: appendCrc (c :: p)) ∧
        t.txState = .idle ∧ t.ev.txDone = true ∧ t.txCnt = p.length + 1 ∧ t.txPos = p.length + 6 ∧
        t.ev.errOpc = s.ev.errOpc ∧ t.ev.errState = s.ev.errState ∧ t.ev.errArg = s.ev.errArg ∧
        t.ev.txOvf = s.ev.txOvf ∧
        t.crcAcc = s.crcAcc ∧ t.crcCnt = s.crcCnt ∧ t.rxState = s.rxState ∧ t.rxBuf = s.rxBuf ∧
        t.rxCtr = s.rxCtr ∧ t.pending = s.pending) ∧
    (p.length ≤ Config.pTxcap →
      ∃ t, runSteps ((Line.txChunk p).events ++ List.replicate (p.length + 5) .txReady) s = .next t ∧
        t.sink = s.sink ++ (BitVec.ofNat 8 (p.length + 4) :: appendCrc p) ∧
        t.txState = .idle ∧ t.ev.txDone = true ∧ t.txCnt = p.length ∧ t.txPos = p.length + 5 ∧
        t.ev.errOpc = s.ev.errOpc ∧ t.ev.errState = s.ev.errState ∧ t.ev.errArg = s.ev.errArg ∧
        t.ev.txOvf = s.ev.txOvf ∧
        t.crcAcc = s.crcAcc ∧ t.crcCnt = s.crcCnt ∧ t.rxState = s.rxState ∧ t.rxBuf = s.rxBuf ∧
        t.rxCtr = s.rxCtr ∧ t.pending = s.pending)

/-! ## Wire command bytes -/

/-- 44_wire_commands.md R240 to R249 with 41_tx_serializer.md R161: each of the nine command bytes opens a command frame
with that byte as its body, and is refused while SENDING (assumption log 3). -/
def Obligations.WireCommandOpensAFrameWithItsByte : Prop :=
  ∀ (i : Instr) (c : Byte), (i, c) ∈ wireTable → ∀ s : State,
    encode i = .wire c ∧
    (s.txState ≠ .sending →
      exec i s = .next { s with
        txKind := .cmd, txBuf := s.txBuf.write 0 c, txCnt := 1, txPos := 0, txState := .opened
        ev := { s.ev with txDone := false } } ∧
      ∃ t, exec i s = .next t ∧ txBody t = [c] ∧ ∀ k, k ≠ 0 → t.txBuf.read k = s.txBuf.read k) ∧
    (s.txState = .sending → exec i s = .next { s with ev := { s.ev with errState := true } })

/-- 44_wire_commands.md R241 to R244, R247 and R248: the frames the spec writes out, the payload empty but for
EraseFlash. -/
def Obligations.WireCommandFramesAreAsWrittenOut : Prop :=
  ∀ s : State, s.txState ≠ .sending →
    (∃ t, execAll [.getHelp, .txSend] s = .next t ∧ t.txSeq = [0x05#8, 0x01#8, 0xCC#8, 0x47#8, 0x69#8, 0x1B#8]) ∧
    (∃ t, execAll [.getID, .txSend] s = .next t ∧ t.txSeq = [0x05#8, 0x02#8, 0xA2#8, 0xF5#8, 0x1E#8, 0x7B#8]) ∧
    (∃ t, execAll [.getVersion, .txSend] s = .next t ∧ t.txSeq = [0x05#8, 0x03#8, 0x15#8, 0x6F#8, 0x73#8, 0xA7#8]) ∧
    (∃ t, execAll [.eraseFlash, .txByte 0x1F, .txByte 0x01, .txSend] s = .next t ∧
      t.txSeq = [0x07#8, 0x04#8, 0x1F#8, 0x01#8, 0x7F#8, 0xBB#8, 0xAC#8, 0x7F#8]) ∧
    (∃ t, execAll [.sayHi, .txSend] s = .next t ∧ t.txSeq = [0x05#8, 0x07#8, 0x10#8, 0x23#8, 0x86#8, 0xDB#8]) ∧
    (∃ t, execAll [.sayBye, .txSend] s = .next t ∧ t.txSeq = [0x05#8, 0x08#8, 0x71#8, 0x45#8, 0xEE#8, 0x3E#8])

/-- 44_wire_commands.md R251: the chunks of a payload are `ceil(n/250)`, each of 1 to 250 bytes, the payload in order; a
300-byte payload gives 250 and 50. -/
def Obligations.ChunksAreThePayloadInOrder : Prop :=
  ∀ p : List Byte,
    (chunks p).flatten = p ∧ (chunks p).length = (p.length + 249) / 250 ∧
    (∀ c ∈ chunks p, 1 ≤ c.length ∧ c.length ≤ 250) ∧
    (p.length = 300 → (chunks p).map List.length = [250, 50])

/-- 44_wire_commands.md R250 with 70_reset_and_hazards.md R304: the two-phase exchange leaves the frame of the command
being sent with the receive armed, a tick while it is sent does not count against the deadline, and ERR_OPC, ERR_STATE,
ERR_ARG and TX_OVF are untouched. -/
def Obligations.ExchangeIsArmedBeforeItIsSent : Prop :=
  ∀ (s : State) (c : Byte) (p : List Byte) (x : Exchange),
    s.rstN = true → s.txState ≠ .sending → s.rxState = .idle → exchangeOf c = some x →
    p.length + 1 ≤ Config.pTxcap →
    ∃ t, runSteps (exchangeProgram c p x) s = .next t ∧
      t.txState = .sending ∧ t.txSeq = commandFrame c p ∧ t.txPos = 0 ∧
      t.rxState = .waitFirst ∧ t.rxCtr = s.rxTmo ∧
      t.rxMode = (if c.toNat ≤ 3 then .ackFrame else .byte) ∧
      (∀ n, runSteps (List.replicate n .tick) t = .next t) ∧
      t.ev.errOpc = s.ev.errOpc ∧ t.ev.errState = s.ev.errState ∧ t.ev.errArg = s.ev.errArg ∧
      t.ev.txOvf = s.ev.txOvf

/-! ## RX unit -/

/-- 42_rx_deserializer.md R191 to R193 with R190: an arm in IDLE starts a receive under a fresh deadline; in any other state
it sets ERR_STATE and changes nothing else. -/
def Obligations.ArmStartsAReceiveOnlyInIdle : Prop :=
  ∀ (i : Instr) (m : RxMode) (w : Word),
    (i, m, w) ∈ [(Instr.rxFrame, RxMode.frame, 0x00000020#32), (.rxByte, .byte, 0x00000021#32),
      (.rxAckFrame, .ackFrame, 0x00000022#32)] →
    encodeWord i = w ∧
    ∀ s : State,
      (s.rxState ≠ .idle → exec i s = .next { s with ev := { s.ev with errState := true } }) ∧
      (s.rxState = .idle →
        exec i s = .next { s with
          rxMode := m, rxState := .waitFirst, rxCnt := 0, rxLen := 0, ackOk := false, rxCtr := s.rxTmo
          ev := { s.ev with rxDone := false, rxTimeout := false } })

/-- 42_rx_deserializer.md R194 and R195: a byte in IDLE is dropped; a length byte 0 completes at once, any other waits for the
body under a fresh deadline. -/
def Obligations.IdleByteIsDroppedAndLengthByteIsTaken : Prop :=
  ∀ (s : State) (es : List Event) (b : Byte), s.rstN = true → s.pending = .rxArrive b :: es →
    (s.rxState = .idle → step s = .next { s with pending := es, ev := { s.ev with rxDrop := true } }) ∧
    (s.rxState = .waitFirst → s.rxMode = .frame → b = 0 →
      step s = .next { s with
        pending := es, rxLen := 0, rxState := .idle, ev := { s.ev with rxDone := true } }) ∧
    (s.rxState = .waitFirst → s.rxMode = .frame → b ≠ 0 →
      step s = .next { s with pending := es, rxLen := b, rxState := .waitBody, rxCtr := s.rxTmo })

/-- 42_rx_deserializer.md R196 with 30_encoding.md R101: the single byte or the acknowledgment. ACK_OK is set exactly for
`0x01`; in ACK_FRAME mode the acknowledgment is not stored and the length byte comes next. -/
def Obligations.AcknowledgmentIsTheByteOne : Prop :=
  ∀ (s : State) (es : List Event) (b : Byte),
    s.rstN = true → s.pending = .rxArrive b :: es → s.rxState = .waitFirst →
    (s.rxMode = .ackFrame → b = 0x01 →
      step s = .next { s with pending := es, ackOk := true, rxMode := .frame, rxCtr := s.rxTmo }) ∧
    (s.rxMode = .byte ∨ (s.rxMode = .ackFrame ∧ b ≠ 0x01) →
      ∃ t, step s = .next t ∧ t.rxBuf.read 0 = some b ∧ (∀ i, i ≠ 0 → t.rxBuf.read i = s.rxBuf.read i) ∧
        t = { s with
          pending := es, ackOk := decide (b = 0x01), rxBuf := t.rxBuf, rxCnt := 1, rxLen := 1, rxState := .idle
          ev := { s.ev with rxDone := true } })

/-- 42_rx_deserializer.md R197: a body byte is stored at `rx_cnt`; the last one completes the receive; the deadline is not
reloaded. -/
def Obligations.BodyByteIsStoredAndTheLastCompletes : Prop :=
  ∀ (s : State) (es : List Event) (b : Byte),
    s.rstN = true → s.pending = .rxArrive b :: es → s.rxState = .waitBody →
    ∃ t, step s = .next t ∧ t.rxBuf.read s.rxCnt = some b ∧
      (∀ i, i ≠ s.rxCnt → t.rxBuf.read i = s.rxBuf.read i) ∧
      (s.rxCnt + 1 = s.rxLen.toNat →
        t = { s with
          pending := es, rxBuf := t.rxBuf, rxCnt := s.rxCnt + 1, rxState := .idle
          ev := { s.ev with rxDone := true } }) ∧
      (s.rxCnt + 1 ≠ s.rxLen.toNat →
        t = { s with pending := es, rxBuf := t.rxBuf, rxCnt := s.rxCnt + 1 })

/-- 42_rx_deserializer.md R198 and R199: a tick counts only while a receive waits with the TX unit IDLE; at 0 it expires the
wait, keeping what was received. -/
def Obligations.TickCountsOnlyWhileWaitingWithTxIdle : Prop :=
  ∀ (s : State) (es : List Event), s.rstN = true → s.pending = .tick :: es →
    (s.rxState = .idle ∨ s.txState ≠ .idle → step s = .next { s with pending := es }) ∧
    (s.rxState ≠ .idle → s.txState = .idle → s.rxCtr ≠ 0 →
      step s = .next { s with pending := es, rxCtr := s.rxCtr - 1 }) ∧
    (s.rxState ≠ .idle → s.txState = .idle → s.rxCtr = 0 →
      step s = .next { s with pending := es, rxState := .idle, ev := { s.ev with rxTimeout := true } })

/-- 42_rx_deserializer.md R198: with a countdown of `k` loaded, a wait with the TX unit IDLE is still waiting after `k`
ticks and expires on tick `k + 1`. -/
def Obligations.WaitExpiresOnTheTickAfterItsDeadline : Prop :=
  ∀ s : State, s.rstN = true → s.rxState ≠ .idle → s.txState = .idle →
    (∀ n, n ≤ s.rxCtr.toNat →
      runSteps (List.replicate n .tick) s = .next { s with rxCtr := s.rxCtr - BitVec.ofNat 32 n }) ∧
    runSteps (List.replicate (s.rxCtr.toNat + 1) .tick) s =
      .next { s with rxCtr := 0, rxState := .idle, ev := { s.ev with rxTimeout := true } }

/-- 42_rx_deserializer.md R201: a receive armed in any mode, with any steps after it that neither arm, reset nor
acknowledge its outcome (bytes, ticks, acceptances, commands of the other units as R250 and R304 order them, reads and the
other writes), ends only in one of the nine rows. The premise that the machine's invariant holds rules out states no run
reaches. -/
def Obligations.EveryFinishedReceiveHasAListedOutcome : Prop :=
  ∀ (s : State) (i : Instr) (m : RxMode) (es : List Event),
    Inv s → s.rstN = true → s.rxState = .idle →
    (i, m) ∈ [(Instr.rxFrame, RxMode.frame), (.rxByte, .byte), (.rxAckFrame, .ackFrame)] →
    (∀ e ∈ es, keepsReceive e = true) →
    ∃ t, runSteps (issue i :: es) s = .next t ∧
      (t.rxState = .idle →
        -- armed with, RX_DONE, RX_TIMEOUT, ACK_OK, RX_MODE
        (i, t.ev.rxDone, t.ev.rxTimeout, t.ackOk, t.rxMode) ∈
          [(Instr.rxFrame, true, false, false, RxMode.frame),
            (.rxFrame, false, true, false, .frame),
            (.rxByte, true, false, true, .byte),
            (.rxByte, true, false, false, .byte),
            (.rxByte, false, true, false, .byte),
            (.rxAckFrame, true, false, true, .frame),
            (.rxAckFrame, true, false, false, .ackFrame),
            (.rxAckFrame, false, true, false, .ackFrame),
            (.rxAckFrame, false, true, true, .frame)] ∧
        rxOutcome m t ≠ .unlisted ∧
        (t.ev.rxDone = true → t.rxCnt = t.rxLen.toNat) ∧
        (t.ev.rxDone = true → t.rxMode ≠ .frame →
          t.rxCnt = 1 ∧ ∃ b, t.rxBuf.read 0 = some b ∧ (t.ackOk = true ↔ b = 0x01)))

/-- 42_rx_deserializer.md R202: a length byte and its body, each phase within `rx_tmo` counted ticks of its start (a tick
more would expire it first), end the receive with exactly the source's `decode_length_prefixed`. The TX unit may be in any
state, and its sink may accept bytes meanwhile. -/
def Obligations.DeserializerMeetsTheSourcesDecode : Prop :=
  ∀ (s : State) (xs : List Event) (len : Byte) (d : List Byte) (ys : List Event),
    Inv s → s.rstN = true → s.rxState = .idle →
    (∀ e ∈ xs ++ ys, e = .txReady ∨ e.isRxOrTick = true) →
    arrivals xs = [] → arrivals ys = d → d.length = len.toNat →
    countedTicks (issue .rxFrame :: xs) s ≤ s.rxTmo.toNat →
    ∃ u, runSteps (issue .rxFrame :: xs) s = .next u ∧
      (countedTicks (.rxArrive len :: ys) u ≤ s.rxTmo.toNat →
        ∃ t, runSteps (.rxArrive len :: ys) u = .next t ∧
          t.rxState = .idle ∧ t.ev.rxDone = true ∧ t.ev.rxTimeout = false ∧ t.rxLen = len ∧ t.rxCnt = len.toNat ∧
          rxBody t = d.map some ∧ decodeLengthPrefixed (len :: d) = some d ∧
          t.ev.rxDrop = s.ev.rxDrop ∧ t.crcAcc = s.crcAcc ∧ t.crcCnt = s.crcCnt ∧
          (.txReady ∉ xs ++ ys → t.txState = s.txState ∧ t.txPos = s.txPos ∧ t.sink = s.sink))

/-- 42_rx_deserializer.md R202, the late cases: no length byte within `rx_tmo + 1` counted ticks, or fewer body bytes than
declared, ends in RX_TIMEOUT with `RX_CNT` 0, or below the declared length. -/
def Obligations.LateLengthOrBodyTimesOut : Prop :=
  ∀ (s : State), s.rstN = true → s.rxState = .idle → s.txState = .idle →
    (∃ t, runSteps (issue .rxFrame :: List.replicate (s.rxTmo.toNat + 1) .tick) s = .next t ∧
      t.rxState = .idle ∧ t.ev.rxTimeout = true ∧ t.ev.rxDone = false ∧ t.rxCnt = 0) ∧
    ∀ (k : Nat) (len : Byte) (es : List Event),
      k ≤ s.rxTmo.toNat → (∀ e ∈ es, e.isRxOrTick = true) →
      (arrivals es).length < len.toNat → tickCount es = s.rxTmo.toNat + 1 →
      ∃ t, runSteps (issue .rxFrame :: (List.replicate k .tick ++ .rxArrive len :: es)) s = .next t ∧
        t.rxState = .idle ∧ t.ev.rxTimeout = true ∧ t.ev.rxDone = false ∧ t.rxLen = len ∧ t.rxCnt < len.toNat

/-! ## The whole machine -/

/-- 60_exceptions.md R274: a `CMD` write raises at most one of ERR_OPC, ERR_STATE, ERR_ARG and TX_OVF, and LWRAP never with
one of them. -/
def Obligations.CommandRaisesAtMostOneError : Prop :=
  ∀ (w : Word) (s : State), ∃ t, writeCmd w s = .next t ∧
    ∀ b ∈ [EventBit.errOpc, .errState, .errArg, .txOvf, .lwrap],
      ∀ c ∈ [EventBit.errOpc, .errState, .errArg, .txOvf, .lwrap],
        s.ev.get b = false → t.ev.get b = true → s.ev.get c = false → t.ev.get c = true → b = c

/-- 60_exceptions.md R273: a set event bit, any of the nine, is cleared only by a W1C write that names it, by `SRESET`, by
the reset input, or, TX_DONE, by a start that is accepted (a wire byte is one, assumption log 3) and, RX_DONE and
RX_TIMEOUT, by an arm that is accepted. -/
def Obligations.EventBitsAreSticky : Prop :=
  ∀ (s t : State) (e : Event) (es : List Event) (b : EventBit),
    s.rstN = true → s.pending = e :: es → step s = .next t → s.ev.get b = true → t.ev.get b = false →
    e = .rstN false ∨
    (∃ l v, e = .host (.write l .word v) ∧ l.offset? = some 0x004 ∧ v.getLsbD b.position = true) ∨
    (∃ l, e = .host (.write l .word 0x0000005A#32) ∧ l.offset? = some 0x000) ∨
    (b = .txDone ∧ s.txState ≠ .sending ∧
      ((∃ l, e = .host (.write l .word 0x00000011#32) ∧ l.offset? = some 0x000) ∨
        ∃ c : Byte, 1 ≤ c.toNat ∧ c.toNat ≤ 9 ∧
          (e = .host (.wire c) ∨
            ∃ l, e = .host (.write l .word (0x0000#16 ++ (c ++ 0x10#8))) ∧ l.offset? = some 0x000))) ∨
    ((b = .rxDone ∨ b = .rxTimeout) ∧ s.rxState = .idle ∧
      ∃ l w, w ∈ [0x00000020#32, 0x00000021#32, 0x00000022#32] ∧ e = .host (.write l .word w) ∧
        l.offset? = some 0x000)

/-- 60_exceptions.md R275: the order of one cycle's steps, and its four consequences, for every byte that completes a
receive, for every deadline and for all three arms. The steps of a cycle are `Cycle.events`, the model's list (assumption
log 12). -/
def Obligations.SameCycleStepsFollowTheHardwareOrder : Prop :=
  (∀ (a : HostAccess) (b : Byte),
    (Cycle.mk true (some a) true (some b) true).events = [.rstN true, .host a, .txReady, .rxArrive b, .tick]) ∧
  ∀ (s : State) (b : Byte), s.rstN = true →
    -- a byte that completes a receive in the cycle of an expiring tick wins
    (completesReceive b s = true → s.rxCtr = 0 → s.ev.rxTimeout = false →
      ∃ t, runSteps (Cycle.mk true none false (some b) true).events s = .next t ∧
        t.rxState = .idle ∧ t.ev.rxDone = true ∧ t.ev.rxTimeout = false) ∧
    -- a length byte reloads the countdown, and the same cycle's tick counts once against it
    (s.rxState = .waitFirst → s.rxMode = .frame → b ≠ 0 → s.txState = .idle →
      ∃ t, runSteps (Cycle.mk true none false (some b) true).events s = .next t ∧ t.rxLen = b ∧
        (s.rxTmo ≠ 0 → t.rxState = .waitBody ∧ t.rxCtr = s.rxTmo - 1) ∧
        (s.rxTmo = 0 → t.rxState = .idle ∧ t.ev.rxTimeout = true)) ∧
    -- a tick in the cycle in which the last byte is accepted already counts
    (s.txState = .sending → s.txPos + 1 = s.txSeq.length → s.rxState ≠ .idle →
      ∃ t, runSteps (Cycle.mk true none true none true).events s = .next t ∧
        t.txState = .idle ∧ t.ev.txDone = true ∧
        (s.rxCtr ≠ 0 → t.rxState = s.rxState ∧ t.rxCtr = s.rxCtr - 1) ∧
        (s.rxCtr = 0 → t.rxState = .idle ∧ t.ev.rxTimeout = true)) ∧
    -- an arm in the cycle of an arrival sees the byte after the arm
    (s.rxState = .idle → ∀ w ∈ [0x00000020#32, 0x00000021#32, 0x00000022#32],
      ∃ t, runSteps (Cycle.mk true (some (.write (.offset 0x000) .word w)) false (some b) false).events s = .next t ∧
        t.ev.rxDrop = s.ev.rxDrop ∧
        (w = 0x00000020#32 →
          t.rxLen = b ∧ (b = 0 → t.rxState = .idle ∧ t.ev.rxDone = true) ∧ (b ≠ 0 → t.rxState = .waitBody)) ∧
        (w = 0x00000022#32 → b = 0x01 → t.rxState = .waitFirst ∧ t.rxMode = .frame ∧ t.ackOk = true) ∧
        (w = 0x00000021#32 ∨ (w = 0x00000022#32 ∧ b ≠ 0x01) →
          t.rxState = .idle ∧ t.ev.rxDone = true ∧ t.rxCnt = 1 ∧ t.rxBuf.read 0 = some b))

/-- 70_reset_and_hazards.md R300 and R301: driving `rst_n` low puts every element at its reset value; while it is low a host
access is answered with a bus error, bytes and ticks are ignored, nothing is emitted and the interrupt output is 0; the
release leaves the reset values. That `rst_n` is a level which a step of the platform changes is assumption log 11, the
recorded bus error log 8, the fields kept beside the elements log 1, 5 and 15; that both buffers, which R43 leaves
unspecified, list no byte afterwards is the model's form (log 7). -/
def Obligations.ResetInputHoldsTheElementsAtReset : Prop :=
  (∀ s : State, act (.rstN false) s = .next { State.reset with
      rstN := false, pending := s.pending, sink := s.sink, resp := s.resp, draws := s.draws }) ∧
  (∀ (s : State) (e : Event), s.rstN = false → (∀ level, e ≠ .rstN level) → (∀ a, e ≠ .host a) →
    act e s = .next { State.reset with
      rstN := false, pending := s.pending, sink := s.sink, resp := s.resp, draws := s.draws }) ∧
  (∀ (s : State) (off : Nat) (size : AccessSize) (v : Word) (b : Byte) (a : HostAccess),
    s.rstN = false → off < 0x200 →
    a ∈ [HostAccess.read (.offset off) size, .write (.offset off) size v, .wire b] →
    act (.host a) s = .next { State.reset with
      rstN := false, pending := s.pending, sink := s.sink, resp := .busError, draws := s.draws }) ∧
  (∀ s : State, s.rstN = false → irq s = false ∧ txValid s = false ∧
    act (.rstN true) s = .next { State.reset with
      rstN := true, pending := s.pending, sink := s.sink, resp := s.resp, draws := s.draws })

/-- 70_reset_and_hazards.md R302: the CFC executes nothing on its own. -/
def Obligations.NothingHappensWithoutAnAgent : Prop :=
  ∀ s : State, s.rstN = true → s.pending = [] → step s = .next s

/-- The invariant of the machine holds at reset (10_state.md R20, R25, R26, R43). -/
def Obligations.InvariantHoldsAtReset : Prop := Inv State.reset

/-- Every step keeps the invariant (10_state.md R20, R25, R26 and the tables of R160 and R190): the buffers keep their
canonical form, an open command frame begins with a command byte, a frame being sent is the frame of its body,
WAIT_BODY occurs only in FRAME mode, and a receive does not both complete and expire. -/
def Obligations.StepKeepsTheInvariant : Prop :=
  ∀ s t : State, Inv s → step s = .next t → Inv t

/-- From a state that meets the invariant a step stops only on a host access outside the window, and no step is ever
refused (60_exceptions.md R270, R276; assumption log 9 and 10). -/
def Obligations.StepStopsOnlyOutsideTheWindow : Prop :=
  ∀ s : State, Inv s →
    (∀ f, step s = .fault f → ∃ l, f = .outsideWindow l ∧ l.offset? = none ∧
      ∃ size v es, s.pending = .host (.read l size) :: es ∨ s.pending = .host (.write l size v) :: es) ∧
    (∀ r, step s ≠ .refused r)

/-- 30_encoding.md R96, R98 to R100 over every run: whatever the agents do from a state that meets the invariant, a command
frame being sent has the length byte, a command byte of the closed set, and the CRC suffix of its zero-padded
body. -/
def Obligations.EveryCommandFrameIsWellFormed : Prop :=
  ∀ (s t : State) (es : List Event), Inv s → runSteps es s = .next t →
    t.txState = .sending → t.txKind = .cmd →
    ∃ (c : Byte) (p : List Byte), 1 ≤ c.toNat ∧ c.toNat ≤ 9 ∧
      t.txSeq = BitVec.ofNat 8 (1 + p.length + 4) :: (c :: p) ++
        [t.txCrc.extractLsb' 0 8, t.txCrc.extractLsb' 8 8, t.txCrc.extractLsb' 16 8, t.txCrc.extractLsb' 24 8] ∧
      t.txCrc = crc32 ((c :: p) ++ List.replicate ((4 - (p.length + 1) % 4) % 4) 0x00#8)
end

