-- ==== Sys2Proof/Laws/State.lean ====
section
/-! SUPPORT. One lemma per field of the state for each shared update, true by rfl: no later proof unfolds a record
update. -/

namespace Sys2Proof.Machine

variable (s : State)


section Raise

variable (e : EventBit)

@[simp] theorem raise_crcAcc : (raise e s).crcAcc = s.crcAcc := rfl
@[simp] theorem raise_crcCnt : (raise e s).crcCnt = s.crcCnt := rfl
@[simp] theorem raise_txState : (raise e s).txState = s.txState := rfl
@[simp] theorem raise_txKind : (raise e s).txKind = s.txKind := rfl
@[simp] theorem raise_txBuf : (raise e s).txBuf = s.txBuf := rfl
@[simp] theorem raise_txCnt : (raise e s).txCnt = s.txCnt := rfl
@[simp] theorem raise_txSeq : (raise e s).txSeq = s.txSeq := rfl
@[simp] theorem raise_txPos : (raise e s).txPos = s.txPos := rfl
@[simp] theorem raise_txLen : (raise e s).txLen = s.txLen := rfl
@[simp] theorem raise_txCrc : (raise e s).txCrc = s.txCrc := rfl
@[simp] theorem raise_rxState : (raise e s).rxState = s.rxState := rfl
@[simp] theorem raise_rxMode : (raise e s).rxMode = s.rxMode := rfl
@[simp] theorem raise_rxBuf : (raise e s).rxBuf = s.rxBuf := rfl
@[simp] theorem raise_rxCnt : (raise e s).rxCnt = s.rxCnt := rfl
@[simp] theorem raise_rxLen : (raise e s).rxLen = s.rxLen := rfl
@[simp] theorem raise_rxTmo : (raise e s).rxTmo = s.rxTmo := rfl
@[simp] theorem raise_rxCtr : (raise e s).rxCtr = s.rxCtr := rfl
@[simp] theorem raise_ackOk : (raise e s).ackOk = s.ackOk := rfl
@[simp] theorem raise_ev : (raise e s).ev = s.ev.put e true := rfl
@[simp] theorem raise_irqEn : (raise e s).irqEn = s.irqEn := rfl
@[simp] theorem raise_rstN : (raise e s).rstN = s.rstN := rfl
@[simp] theorem raise_pending : (raise e s).pending = s.pending := rfl
@[simp] theorem raise_sink : (raise e s).sink = s.sink := rfl
@[simp] theorem raise_resp : (raise e s).resp = s.resp := rfl
@[simp] theorem raise_draws : (raise e s).draws = s.draws := rfl

end Raise


section Lower

variable (e : EventBit)

@[simp] theorem lower_crcAcc : (lower e s).crcAcc = s.crcAcc := rfl
@[simp] theorem lower_crcCnt : (lower e s).crcCnt = s.crcCnt := rfl
@[simp] theorem lower_txState : (lower e s).txState = s.txState := rfl
@[simp] theorem lower_txKind : (lower e s).txKind = s.txKind := rfl
@[simp] theorem lower_txBuf : (lower e s).txBuf = s.txBuf := rfl
@[simp] theorem lower_txCnt : (lower e s).txCnt = s.txCnt := rfl
@[simp] theorem lower_txSeq : (lower e s).txSeq = s.txSeq := rfl
@[simp] theorem lower_txPos : (lower e s).txPos = s.txPos := rfl
@[simp] theorem lower_txLen : (lower e s).txLen = s.txLen := rfl
@[simp] theorem lower_txCrc : (lower e s).txCrc = s.txCrc := rfl
@[simp] theorem lower_rxState : (lower e s).rxState = s.rxState := rfl
@[simp] theorem lower_rxMode : (lower e s).rxMode = s.rxMode := rfl
@[simp] theorem lower_rxBuf : (lower e s).rxBuf = s.rxBuf := rfl
@[simp] theorem lower_rxCnt : (lower e s).rxCnt = s.rxCnt := rfl
@[simp] theorem lower_rxLen : (lower e s).rxLen = s.rxLen := rfl
@[simp] theorem lower_rxTmo : (lower e s).rxTmo = s.rxTmo := rfl
@[simp] theorem lower_rxCtr : (lower e s).rxCtr = s.rxCtr := rfl
@[simp] theorem lower_ackOk : (lower e s).ackOk = s.ackOk := rfl
@[simp] theorem lower_ev : (lower e s).ev = s.ev.put e false := rfl
@[simp] theorem lower_irqEn : (lower e s).irqEn = s.irqEn := rfl
@[simp] theorem lower_rstN : (lower e s).rstN = s.rstN := rfl
@[simp] theorem lower_pending : (lower e s).pending = s.pending := rfl
@[simp] theorem lower_sink : (lower e s).sink = s.sink := rfl
@[simp] theorem lower_resp : (lower e s).resp = s.resp := rfl
@[simp] theorem lower_draws : (lower e s).draws = s.draws := rfl

end Lower


section Acknowledge

variable (v : Word)

@[simp] theorem acknowledge_crcAcc : (acknowledge v s).crcAcc = s.crcAcc := rfl
@[simp] theorem acknowledge_crcCnt : (acknowledge v s).crcCnt = s.crcCnt := rfl
@[simp] theorem acknowledge_txState : (acknowledge v s).txState = s.txState := rfl
@[simp] theorem acknowledge_txKind : (acknowledge v s).txKind = s.txKind := rfl
@[simp] theorem acknowledge_txBuf : (acknowledge v s).txBuf = s.txBuf := rfl
@[simp] theorem acknowledge_txCnt : (acknowledge v s).txCnt = s.txCnt := rfl
@[simp] theorem acknowledge_txSeq : (acknowledge v s).txSeq = s.txSeq := rfl
@[simp] theorem acknowledge_txPos : (acknowledge v s).txPos = s.txPos := rfl
@[simp] theorem acknowledge_txLen : (acknowledge v s).txLen = s.txLen := rfl
@[simp] theorem acknowledge_txCrc : (acknowledge v s).txCrc = s.txCrc := rfl
@[simp] theorem acknowledge_rxState : (acknowledge v s).rxState = s.rxState := rfl
@[simp] theorem acknowledge_rxMode : (acknowledge v s).rxMode = s.rxMode := rfl
@[simp] theorem acknowledge_rxBuf : (acknowledge v s).rxBuf = s.rxBuf := rfl
@[simp] theorem acknowledge_rxCnt : (acknowledge v s).rxCnt = s.rxCnt := rfl
@[simp] theorem acknowledge_rxLen : (acknowledge v s).rxLen = s.rxLen := rfl
@[simp] theorem acknowledge_rxTmo : (acknowledge v s).rxTmo = s.rxTmo := rfl
@[simp] theorem acknowledge_rxCtr : (acknowledge v s).rxCtr = s.rxCtr := rfl
@[simp] theorem acknowledge_ackOk : (acknowledge v s).ackOk = s.ackOk := rfl
@[simp] theorem acknowledge_ev : (acknowledge v s).ev = s.ev.clear (Events.ofWord v) := rfl
@[simp] theorem acknowledge_irqEn : (acknowledge v s).irqEn = s.irqEn := rfl
@[simp] theorem acknowledge_rstN : (acknowledge v s).rstN = s.rstN := rfl
@[simp] theorem acknowledge_pending : (acknowledge v s).pending = s.pending := rfl
@[simp] theorem acknowledge_sink : (acknowledge v s).sink = s.sink := rfl
@[simp] theorem acknowledge_resp : (acknowledge v s).resp = s.resp := rfl
@[simp] theorem acknowledge_draws : (acknowledge v s).draws = s.draws := rfl

end Acknowledge


section Respond

variable (r : Response)

@[simp] theorem respond_crcAcc : (respond r s).crcAcc = s.crcAcc := rfl
@[simp] theorem respond_crcCnt : (respond r s).crcCnt = s.crcCnt := rfl
@[simp] theorem respond_txState : (respond r s).txState = s.txState := rfl
@[simp] theorem respond_txKind : (respond r s).txKind = s.txKind := rfl
@[simp] theorem respond_txBuf : (respond r s).txBuf = s.txBuf := rfl
@[simp] theorem respond_txCnt : (respond r s).txCnt = s.txCnt := rfl
@[simp] theorem respond_txSeq : (respond r s).txSeq = s.txSeq := rfl
@[simp] theorem respond_txPos : (respond r s).txPos = s.txPos := rfl
@[simp] theorem respond_txLen : (respond r s).txLen = s.txLen := rfl
@[simp] theorem respond_txCrc : (respond r s).txCrc = s.txCrc := rfl
@[simp] theorem respond_rxState : (respond r s).rxState = s.rxState := rfl
@[simp] theorem respond_rxMode : (respond r s).rxMode = s.rxMode := rfl
@[simp] theorem respond_rxBuf : (respond r s).rxBuf = s.rxBuf := rfl
@[simp] theorem respond_rxCnt : (respond r s).rxCnt = s.rxCnt := rfl
@[simp] theorem respond_rxLen : (respond r s).rxLen = s.rxLen := rfl
@[simp] theorem respond_rxTmo : (respond r s).rxTmo = s.rxTmo := rfl
@[simp] theorem respond_rxCtr : (respond r s).rxCtr = s.rxCtr := rfl
@[simp] theorem respond_ackOk : (respond r s).ackOk = s.ackOk := rfl
@[simp] theorem respond_ev : (respond r s).ev = s.ev := rfl
@[simp] theorem respond_irqEn : (respond r s).irqEn = s.irqEn := rfl
@[simp] theorem respond_rstN : (respond r s).rstN = s.rstN := rfl
@[simp] theorem respond_pending : (respond r s).pending = s.pending := rfl
@[simp] theorem respond_sink : (respond r s).sink = s.sink := rfl
@[simp] theorem respond_resp : (respond r s).resp = r := rfl
@[simp] theorem respond_draws : (respond r s).draws = s.draws := rfl

end Respond


section FoldByte

variable (b : Byte)

@[simp] theorem foldByte_crcAcc : (foldByte b s).crcAcc = crcStep s.crcAcc b := rfl
@[simp] theorem foldByte_crcCnt : (foldByte b s).crcCnt = s.crcCnt + 1 := rfl
@[simp] theorem foldByte_txState : (foldByte b s).txState = s.txState := rfl
@[simp] theorem foldByte_txKind : (foldByte b s).txKind = s.txKind := rfl
@[simp] theorem foldByte_txBuf : (foldByte b s).txBuf = s.txBuf := rfl
@[simp] theorem foldByte_txCnt : (foldByte b s).txCnt = s.txCnt := rfl
@[simp] theorem foldByte_txSeq : (foldByte b s).txSeq = s.txSeq := rfl
@[simp] theorem foldByte_txPos : (foldByte b s).txPos = s.txPos := rfl
@[simp] theorem foldByte_txLen : (foldByte b s).txLen = s.txLen := rfl
@[simp] theorem foldByte_txCrc : (foldByte b s).txCrc = s.txCrc := rfl
@[simp] theorem foldByte_rxState : (foldByte b s).rxState = s.rxState := rfl
@[simp] theorem foldByte_rxMode : (foldByte b s).rxMode = s.rxMode := rfl
@[simp] theorem foldByte_rxBuf : (foldByte b s).rxBuf = s.rxBuf := rfl
@[simp] theorem foldByte_rxCnt : (foldByte b s).rxCnt = s.rxCnt := rfl
@[simp] theorem foldByte_rxLen : (foldByte b s).rxLen = s.rxLen := rfl
@[simp] theorem foldByte_rxTmo : (foldByte b s).rxTmo = s.rxTmo := rfl
@[simp] theorem foldByte_rxCtr : (foldByte b s).rxCtr = s.rxCtr := rfl
@[simp] theorem foldByte_ackOk : (foldByte b s).ackOk = s.ackOk := rfl
@[simp] theorem foldByte_ev : (foldByte b s).ev = s.ev := rfl
@[simp] theorem foldByte_irqEn : (foldByte b s).irqEn = s.irqEn := rfl
@[simp] theorem foldByte_rstN : (foldByte b s).rstN = s.rstN := rfl
@[simp] theorem foldByte_pending : (foldByte b s).pending = s.pending := rfl
@[simp] theorem foldByte_sink : (foldByte b s).sink = s.sink := rfl
@[simp] theorem foldByte_resp : (foldByte b s).resp = s.resp := rfl
@[simp] theorem foldByte_draws : (foldByte b s).draws = s.draws := rfl

end FoldByte


section CfcReset

@[simp] theorem cfcReset_crcAcc : (cfcReset s).crcAcc = 0xFFFFFFFF := rfl
@[simp] theorem cfcReset_crcCnt : (cfcReset s).crcCnt = 0 := rfl
@[simp] theorem cfcReset_txState : (cfcReset s).txState = .idle := rfl
@[simp] theorem cfcReset_txKind : (cfcReset s).txKind = .cmd := rfl
@[simp] theorem cfcReset_txBuf : (cfcReset s).txBuf = [] := rfl
@[simp] theorem cfcReset_txCnt : (cfcReset s).txCnt = 0 := rfl
@[simp] theorem cfcReset_txSeq : (cfcReset s).txSeq = [] := rfl
@[simp] theorem cfcReset_txPos : (cfcReset s).txPos = 0 := rfl
@[simp] theorem cfcReset_txLen : (cfcReset s).txLen = 0 := rfl
@[simp] theorem cfcReset_txCrc : (cfcReset s).txCrc = 0 := rfl
@[simp] theorem cfcReset_rxState : (cfcReset s).rxState = .idle := rfl
@[simp] theorem cfcReset_rxMode : (cfcReset s).rxMode = .frame := rfl
@[simp] theorem cfcReset_rxBuf : (cfcReset s).rxBuf = [] := rfl
@[simp] theorem cfcReset_rxCnt : (cfcReset s).rxCnt = 0 := rfl
@[simp] theorem cfcReset_rxLen : (cfcReset s).rxLen = 0 := rfl
@[simp] theorem cfcReset_rxTmo : (cfcReset s).rxTmo = Config.pTmoReset := rfl
@[simp] theorem cfcReset_rxCtr : (cfcReset s).rxCtr = 0 := rfl
@[simp] theorem cfcReset_ackOk : (cfcReset s).ackOk = false := rfl
@[simp] theorem cfcReset_ev : (cfcReset s).ev = Events.none := rfl
@[simp] theorem cfcReset_irqEn : (cfcReset s).irqEn = Events.none := rfl
@[simp] theorem cfcReset_rstN : (cfcReset s).rstN = s.rstN := rfl
@[simp] theorem cfcReset_pending : (cfcReset s).pending = s.pending := rfl
@[simp] theorem cfcReset_sink : (cfcReset s).sink = s.sink := rfl
@[simp] theorem cfcReset_resp : (cfcReset s).resp = s.resp := rfl
@[simp] theorem cfcReset_draws : (cfcReset s).draws = s.draws := rfl

end CfcReset

end Sys2Proof.Machine
end

