-- ==== Sys2Proof/Laws/Crc.lean ====
section
/-! SUPPORT. The laws of the CRC function and of the CRC unit's folding. -/

namespace Sys2Proof.Machine

@[simp] theorem crcFold_nil (a : Word) : crcFold a [] = a := rfl

@[simp] theorem crcFold_cons (a : Word) (b : Byte) (bs : List Byte) :
    crcFold a (b :: bs) = crcFold (crcStep a b) bs := rfl

theorem crcFold_append (a : Word) (xs ys : List Byte) : crcFold a (xs ++ ys) = crcFold (crcFold a xs) ys := by
  induction xs generalizing a with
  | nil => rfl
  | cons x xs ih => simpa using ih (crcStep a x)

/-- Everything that folding `k` zero bytes does. -/
theorem foldZeros_eq (k : Nat) (s : State) :
    foldZeros k s =
      { s with crcAcc := crcFold s.crcAcc (zeros k), crcCnt := s.crcCnt + BitVec.ofNat 32 k } := by
  induction k generalizing s with
  | zero => simp [foldZeros, zeros]
  | succ k ih =>
    have hc : s.crcCnt + 1 + BitVec.ofNat 32 k = s.crcCnt + BitVec.ofNat 32 (k + 1) := by
      rw [BitVec.ofNat_add, BitVec.add_assoc, BitVec.add_comm (1 : Word)]
      rfl
    simp only [foldZeros, ih, foldByte, hc, zeros, List.replicate_succ, crcFold_cons]

end Sys2Proof.Machine
end

