-- ==== Sys2Proof/Laws/Exec.lean ====
section
/-! SUPPORT. What holds of every instruction and of every agent's step: an instruction always answers a next state, and
neither an instruction nor a step reads or writes the steps that are waiting. -/

namespace Sys2Proof.Machine

theorem TxState.eq_one_of (x : TxState) : x = .idle ∨ x = .opened ∨ x = .sending := by cases x <;> simp

theorem RxState.eq_one_of (x : RxState) : x = .idle ∨ x = .waitFirst ∨ x = .waitBody := by cases x <;> simp

theorem RxMode.eq_one_of (x : RxMode) : x = .frame ∨ x = .byte ∨ x = .ackFrame := by cases x <;> simp

/-! The four arrivals (R194 to R197), by the phase that takes the byte. -/

section Arrival

variable {s : State} (b : Byte)

theorem rxArrive_idle (h : s.rxState = .idle) : rxArrive b s = raise .rxDrop s := by
  simp only [rxArrive, h]

theorem rxArrive_frame (h : s.rxState = .waitFirst) (hm : s.rxMode = .frame) : rxArrive b s = takeLength b s := by
  simp only [rxArrive, h, hm]

theorem rxArrive_byte (h : s.rxState = .waitFirst) (hm : s.rxMode = .byte) : rxArrive b s = takeSingle b s := by
  simp only [rxArrive, h, hm]

theorem rxArrive_ackFrame (h : s.rxState = .waitFirst) (hm : s.rxMode = .ackFrame) :
    rxArrive b s = takeAck b s := by
  simp only [rxArrive, h, hm]

theorem rxArrive_body (h : s.rxState = .waitBody) : rxArrive b s = takeBody b s := by
  simp only [rxArrive, h]

end Arrival

/-- Put a list of waiting steps into the state an outcome answers, if it answers one. -/
def withPending (p : List Event) : Host.Outcome State Fault Refusal → Host.Outcome State Fault Refusal
  | .next s => .next { s with pending := p }
  | .fault r => .fault r
  | .refused r => .refused r

/-- The state an instruction leaves; every instruction answers a next state. -/
def execState (i : Instr) (s : State) : State :=
  match i with
  | .nop => s
  | .crcInit => { s with crcAcc := crcStart, crcCnt := 0 }
  | .crcByte b => foldByte b s
  | .crcPad4 => foldZeros (padCount (s.crcCnt.extractLsb' 0 2).toNat) s
  | .txStartCmd c => startCommand c s
  | .txStartRaw => startRaw s
  | .txByte b => appendByte b s
  | .txSend => sendFrame s
  | .txAbort => abortFrame s
  | .rxFrame => arm .frame s
  | .rxByte => arm .byte s
  | .rxAckFrame => arm .ackFrame s
  | .sreset => cfcReset s
  | .getHelp => startCommand 1 s
  | .getID => startCommand 2 s
  | .getVersion => startCommand 3 s
  | .eraseFlash => startCommand 4 s
  | .flashApplication => startCommand 5 s
  | .addressJump => startCommand 6 s
  | .sayHi => startCommand 7 s
  | .sayBye => startCommand 8 s
  | .writeData => startCommand 9 s

theorem exec_eq (i : Instr) (s : State) : exec i s = .next (execState i s) := by cases i <;> rfl

section Pending

variable (p : List Event) (s : State)

theorem startCommand_pending (c : Byte) :
    startCommand c { s with pending := p } = { startCommand c s with pending := p } := by
  unfold startCommand; dsimp only; split
  · rfl
  · split <;> rfl

theorem startRaw_pending : startRaw { s with pending := p } = { startRaw s with pending := p } := by
  unfold startRaw; dsimp only; split <;> rfl

theorem appendByte_pending (b : Byte) :
    appendByte b { s with pending := p } = { appendByte b s with pending := p } := by
  unfold appendByte; dsimp only; split
  · rfl
  · split <;> rfl

theorem sendFrame_pending : sendFrame { s with pending := p } = { sendFrame s with pending := p } := by
  unfold sendFrame; dsimp only; split
  · rfl
  · split <;> rfl

theorem abortFrame_pending : abortFrame { s with pending := p } = { abortFrame s with pending := p } := by
  unfold abortFrame; dsimp only; split
  · rfl
  · split <;> rfl

theorem arm_pending (m : RxMode) : arm m { s with pending := p } = { arm m s with pending := p } := by
  unfold arm; dsimp only; split <;> rfl

theorem foldZeros_pending (k : Nat) :
    foldZeros k { s with pending := p } = { foldZeros k s with pending := p } := by
  simp only [foldZeros_eq]

theorem execState_pending (i : Instr) :
    execState i { s with pending := p } = { execState i s with pending := p } := by
  cases i <;>
    first
    | rfl
    | exact foldZeros_pending p s _
    | exact startCommand_pending p s _
    | exact startRaw_pending p s
    | exact appendByte_pending p s _
    | exact sendFrame_pending p s
    | exact abortFrame_pending p s
    | exact arm_pending p s _

theorem exec_pending (i : Instr) : exec i { s with pending := p } = withPending p (exec i s) := by
  rw [exec_eq, exec_eq, execState_pending]; rfl

theorem takeLength_pending (b : Byte) :
    takeLength b { s with pending := p } = { takeLength b s with pending := p } := by
  unfold takeLength; split <;> rfl

theorem takeAck_pending (b : Byte) : takeAck b { s with pending := p } = { takeAck b s with pending := p } := by
  unfold takeAck; split <;> rfl

theorem takeBody_pending (b : Byte) : takeBody b { s with pending := p } = { takeBody b s with pending := p } := by
  unfold takeBody; dsimp only; split <;> rfl

theorem rxArrive_pending (b : Byte) : rxArrive b { s with pending := p } = { rxArrive b s with pending := p } := by
  rcases RxState.eq_one_of s.rxState with h | h | h
  · rw [rxArrive_idle b h, rxArrive_idle b (s := { s with pending := p }) h]; rfl
  · rcases RxMode.eq_one_of s.rxMode with hm | hm | hm
    · rw [rxArrive_frame b h hm, rxArrive_frame b (s := { s with pending := p }) h hm, takeLength_pending]
    · rw [rxArrive_byte b h hm, rxArrive_byte b (s := { s with pending := p }) h hm]; rfl
    · rw [rxArrive_ackFrame b h hm, rxArrive_ackFrame b (s := { s with pending := p }) h hm, takeAck_pending]
  · rw [rxArrive_body b h, rxArrive_body b (s := { s with pending := p }) h, takeBody_pending]

theorem tick_pending : tick { s with pending := p } = { tick s with pending := p } := by
  unfold tick; dsimp only; split
  · split <;> rfl
  · rfl

theorem txAccept_pending : txAccept { s with pending := p } = withPending p (txAccept s) := by
  unfold txAccept; dsimp only; split
  · cases s.txSeq[s.txPos]? with
    | none => rfl
    | some b =>
      simp only [withPending]; unfold emitByte; dsimp only; split <;> rfl
  · rfl

theorem writeCmd_pending (w : Word) : writeCmd w { s with pending := p } = withPending p (writeCmd w s) := by
  unfold writeCmd
  cases decodeCmd w with
  | ok i => exact exec_pending p s i
  | error _ => rfl

theorem writeReg_pending (r : Reg) (v : Word) :
    writeReg r v { s with pending := p } = withPending p (writeReg r v s) := by
  cases r <;> first | rfl | exact writeCmd_pending p (respond .written s) v

theorem hostAccess_pending (a : HostAccess) :
    hostAccess a { s with pending := p } = withPending p (hostAccess a s) := by
  cases a with
  | wire b =>
    unfold hostAccess sendWireByte; dsimp only; split
    · cases decodeWire b with
      | ok i => exact exec_pending p (respond .written s) i
      | error _ => exact exec_pending p (respond .written s) (.txStartCmd b)
    · rfl
  | read l size =>
    unfold hostAccess; dsimp only
    cases l.offset? with
    | none => rfl
    | some off =>
      dsimp only; split
      · cases accessedReg off size with
        | none => rfl
        | some r => cases r <;> rfl
      · rfl
  | write l size v =>
    unfold hostAccess; dsimp only
    cases l.offset? with
    | none => rfl
    | some off =>
      dsimp only; split
      · cases accessedReg off size with
        | none => rfl
        | some r => exact writeReg_pending p s r v
      · rfl

/-- A step neither reads nor writes the steps that are waiting. -/
theorem act_pending (e : Event) : act e { s with pending := p } = withPending p (act e s) := by
  cases e with
  | host a => exact hostAccess_pending p s a
  | txReady =>
    unfold act; dsimp only; split
    · exact txAccept_pending p s
    · rfl
  | rxArrive b =>
    unfold act; dsimp only; split
    · rw [rxArrive_pending]; rfl
    · rfl
  | tick =>
    unfold act; dsimp only; split
    · rw [tick_pending]; rfl
    · rfl
  | rstN level =>
    unfold act driveReset; dsimp only; split
    · split <;> rfl
    · rfl

end Pending

/-- The steps that are waiting are still waiting after a step that answers a next state. -/
theorem act_next_pending {e : Event} {s t : State} (h : act e s = .next t) : t.pending = s.pending := by
  have hp : act e s = withPending s.pending (act e s) := act_pending s.pending s e
  rw [h] at hp
  injection hp with ht
  rw [ht]

end Sys2Proof.Machine
end

