-- ==== Sys2Proof/Laws/Bus.lean ====
section
/-! SUPPORT. The laws of the host's accesses: where a location lies, which register an offset holds, and what an access
to a register in the window does. -/

namespace Sys2Proof.Machine

theorem Location.offset?_offset {off : Nat} (h : off < 0x200) : (Location.offset off).offset? = some off := by
  rw [Location.offset?, if_pos h]

theorem Location.offset?_offset_out {off : Nat} (h : ¬ off < 0x200) : (Location.offset off).offset? = none := by
  rw [Location.offset?, if_neg h]

theorem Location.offset?_address {addr : Nat} (h : Config.pBase ≤ addr ∧ addr - Config.pBase < 0x200) :
    (Location.address addr).offset? = some (addr - Config.pBase) := by
  rw [Location.offset?, if_pos h]

theorem Location.offset?_address_out {addr : Nat} (h : ¬ (Config.pBase ≤ addr ∧ addr - Config.pBase < 0x200)) :
    (Location.address addr).offset? = none := by
  rw [Location.offset?, if_neg h]

/-- Where a location lies in the window, its offset is in the window. -/
theorem Location.offset?_lt {l : Location} {off : Nat} (h : l.offset? = some off) : off < 0x200 := by
  cases l with
  | offset o =>
    by_cases ho : o < 0x200
    · rw [Location.offset?_offset ho] at h; injection h with h; omega
    · rw [Location.offset?_offset_out ho] at h; exact absurd h (by simp)
  | address a =>
    by_cases ha : Config.pBase ≤ a ∧ a - Config.pBase < 0x200
    · rw [Location.offset?_address ha] at h; injection h with h; omega
    · rw [Location.offset?_address_out ha] at h; exact absurd h (by simp)

/-- The offsets of R64 hold no register. -/
theorem regAt_unmapped {off : Nat} (h : 0x030 ≤ off) (h' : off < 0x100) : regAt off = none := by
  unfold regAt
  split
  all_goals first | omega | exact if_neg (by omega)

/-- The words of `RX_BUF` (R40). -/
theorem regAt_rxBuf {k : Nat} (h : k ≤ 63) : regAt (0x100 + 4 * k) = some (.rxBuf k) := by
  interval_cases k <;> rfl

/-- A register's offset holds that register (R62). -/
theorem regAt_offset {r : Reg} (h : ∀ k, r = .rxBuf k → k ≤ 63) : regAt r.offset = some r := by
  cases r with
  | rxBuf k => exact regAt_rxBuf (h k rfl)
  | _ => rfl

/-! The five kinds of step. -/

theorem act_host (a : HostAccess) (s : State) : act (.host a) s = hostAccess a s := rfl

theorem act_txReady {s : State} (h : s.rstN = true) : act .txReady s = txAccept s := by simp only [act, h, if_true]

theorem act_rxArrive (b : Byte) {s : State} (h : s.rstN = true) :
    act (.rxArrive b) s = .next (rxArrive b s) := by
  simp only [act, h, if_true]

theorem act_tick {s : State} (h : s.rstN = true) : act .tick s = .next (tick s) := by simp only [act, h, if_true]

theorem act_rstN (level : Bool) (s : State) : act (.rstN level) s = .next (driveReset level s) := rfl

section Access

variable {s : State} {l : Location} {off : Nat} {size : AccessSize} (v : Word)

theorem hostAccess_outside (h : l.offset? = none) :
    hostAccess (.read l size) s = .fault (.outsideWindow l) ∧
      hostAccess (.write l size v) s = .fault (.outsideWindow l) := by
  simp only [hostAccess, h, and_self]

theorem hostAccess_read {r : Reg} (hs : s.rstN = true) (h : l.offset? = some off)
    (hr : accessedReg off size = some r) : hostAccess (.read l size) s = .next (readReg r s) := by
  simp only [hostAccess, h, hs, hr, if_true]

theorem hostAccess_write {r : Reg} (hs : s.rstN = true) (h : l.offset? = some off)
    (hr : accessedReg off size = some r) : hostAccess (.write l size v) s = writeReg r v s := by
  simp only [hostAccess, h, hs, hr, if_true]

theorem hostAccess_bad (hs : s.rstN = true) (h : l.offset? = some off) (hr : accessedReg off size = none) :
    hostAccess (.read l size) s = .next (respond .busError s) ∧
      hostAccess (.write l size v) s = .next (respond .busError s) := by
  simp only [hostAccess, h, hs, hr, if_true, and_self]

end Access

/-- A 32-bit write to `CMD` (R28, R66). -/
theorem hostAccess_cmd {s : State} (w : Word) (hs : s.rstN = true) :
    hostAccess (.write (.offset 0x000) .word w) s = writeCmd w (respond .written s) :=
  hostAccess_write (r := .cmd) w hs (Location.offset?_offset (off := 0x000) (by decide)) rfl

/-- A `CMD` write always answers a next state: an instruction's, or ERR_OPC (R92). -/
theorem writeCmd_eq (w : Word) (s : State) :
    writeCmd w s = .next (match decodeCmd w with | .ok i => execState i s | .error _ => raise .errOpc s) := by
  unfold writeCmd
  cases decodeCmd w with
  | ok i => exact exec_eq i s
  | error e => rfl

end Sys2Proof.Machine
end

