-- ==== Sys2Proof/Laws/Config.lean ====
section
/-! SUPPORT. The ranges of the OPEN parameters (00_scope.md R6, 93_implementation_defined.md section 2). -/

namespace Sys2Proof.Config

theorem pTick_pos : 0 < pTick := by
  unfold pTick
  positivity

/-- The form of `pTick` shuts no positive period out. -/
theorem pTick_form_covers (q : ℚ) (h : 0 < q) : ∃ n d : Nat, q = ((n + 1 : Nat) : ℚ) / ((d + 1 : Nat) : ℚ) := by
  have hn : 0 < q.num := Rat.num_pos.mpr h
  refine ⟨q.num.toNat - 1, q.den - 1, ?_⟩
  have h1 : ((q.num.toNat - 1 + 1 : Nat) : ℚ) = q.num := by
    rw [Nat.sub_add_cancel (by omega)]
    exact_mod_cast Int.toNat_of_nonneg hn.le
  rw [h1, Nat.sub_add_cancel q.den_pos, Rat.num_div_den]

theorem le_pTxcap : 251 ≤ pTxcap := Nat.le_add_left _ _

theorem pTxcap_le : pTxcap ≤ 65536 := by
  have h := txcapAbove.isLt
  unfold pTxcap
  omega

theorem pAppSizeKb_pos : 0 < pAppSizeKb := Nat.succ_pos _

end Sys2Proof.Config
end

