-- ==== Sys2Proof/Laws/Decode.lean ====
section
/-! SUPPORT. The laws of a command word's fields, and the step that issues an instruction. -/

namespace Sys2Proof

/-- The fields of a joined word are the fields it was joined from (R90). -/
theorem Code.ofWord_joinWord (opc arg8 : Byte) (rsv : BitVec 16) :
    Code.ofWord (joinWord opc arg8 rsv) = .cmd opc arg8 rsv := by
  unfold Code.ofWord joinWord
  congr 1
  all_goals
    apply BitVec.eq_of_getLsbD_eq
    intro i hi
    rw [BitVec.getLsbD_extractLsb', BitVec.getLsbD_append, BitVec.getLsbD_append]
    interval_cases i <;> simp

theorem decodeCmd_joinWord (opc arg8 : Byte) (rsv : BitVec 16) :
    decodeCmd (joinWord opc arg8 rsv) = decodeCode (.cmd opc arg8 rsv) := by
  rw [decodeCmd, Code.ofWord_joinWord]

namespace Machine

/-- Issuing an instruction over the bus runs it, the access having completed (R92, R66). -/
theorem act_issue (i : Instr) {s : State} (hr : s.rstN = true) :
    act (issue i) s = .next (execState i (respond .written s)) := by
  have word : ∀ o a, decodeCode (.cmd o a 0) = .ok i →
      act (.host (.write (.offset 0) .word (joinWord o a 0))) s = .next (execState i (respond .written s)) := by
    intro o a h
    rw [act_host, hostAccess_cmd _ hr, writeCmd_eq, decodeCmd_joinWord, h]
  have wire : ∀ b, decodeWire b = .ok i →
      act (.host (.wire b)) s = .next (execState i (respond .written s)) := by
    intro b h
    rw [act_host]
    simp only [hostAccess, hr, if_true, sendWireByte, h, exec_eq]
  cases i <;> first | exact word _ _ rfl | exact wire _ rfl

end Machine

end Sys2Proof
end

