-- ==== Sys2Proof/Laws/Flags.lean ====
section
/-! SUPPORT. The laws of the event bits. -/

namespace Sys2Proof.Machine

@[simp] theorem Events.get_put_same (e : Events) (b : EventBit) (v : Bool) : (e.put b v).get b = v := by
  cases b <;> rfl

theorem Events.get_put_other (e : Events) (b c : EventBit) (v : Bool) (h : c ≠ b) :
    (e.put b v).get c = e.get c := by
  cases b <;> cases c <;> first | rfl | exact absurd rfl h

@[simp] theorem Events.none_get (b : EventBit) : Events.none.get b = false := by cases b <;> rfl

theorem Events.clear_get (e v : Events) (b : EventBit) : (e.clear v).get b = (e.get b && !v.get b) := by
  cases b <;> rfl

theorem Events.ofWord_get (v : Word) (b : EventBit) : (Events.ofWord v).get b = v.getLsbD b.position := by
  cases b <;> rfl

/-- Bit `i` of a one-bit word. -/
theorem bitAt_getLsbD (b : Bool) (k i : Nat) (hk : k < 32) :
    (bitAt b k).getLsbD i = (b && decide (i = k)) := by
  by_cases hi : i < 32
  · interval_cases k <;> interval_cases i <;> cases b <;> rfl
  · rw [BitVec.getLsbD_of_ge _ _ (by omega)]
    simp only [Bool.false_eq, Bool.and_eq_false_iff, decide_eq_false_iff_not]
    exact Or.inr (by omega)

end Sys2Proof.Machine
end

