-- ==== Sys2Proof/Laws/Memory.lean ====
section
/-! SUPPORT. The laws of the byte buffers: a read after a write, and that a write keeps the canonical form. -/

namespace Sys2Proof.Machine

@[simp] theorem Memory.read_nil (i : Nat) : Memory.read [] i = none := rfl

@[simp] theorem Memory.read_cons (k : Nat) (v : Byte) (m : Memory) (i : Nat) :
    Memory.read ((k, v) :: m) i = if k = i then some v else m.read i := rfl

theorem Memory.read_write (m : Memory) (i j : Nat) (b : Byte) :
    (m.write i b).read j = if j = i then some b else m.read j := by
  induction m with
  | nil => simp [Memory.write, eq_comm]
  | cons cell m ih =>
    obtain ⟨k, v⟩ := cell
    by_cases hji : j = i
    · subst hji
      simp only [Memory.write, if_true]
      split
      · simp
      · split
        · simp
        · rename_i h
          simpa [Ne.symm h] using ih
    · have hij : ¬ i = j := fun h => hji h.symm
      simp only [hji, if_false] at ih
      simp only [Memory.write, hji, if_false]
      split
      · simp [hij]
      · split
        · rename_i h
          subst h
          simp [hij]
        · simp [ih]

@[simp] theorem Memory.read_write_same (m : Memory) (i : Nat) (b : Byte) : (m.write i b).read i = some b := by
  simp [Memory.read_write]

theorem Memory.read_write_other (m : Memory) (i j : Nat) (b : Byte) (h : j ≠ i) :
    (m.write i b).read j = m.read j := by
  simp [Memory.read_write, h]

theorem Memory.risingFrom_write (m : Memory) (lo i : Nat) (b : Byte) (hi : lo ≤ i)
    (h : m.risingFrom lo = true) : (m.write i b).risingFrom lo = true := by
  induction m generalizing lo with
  | nil => simpa [Memory.write, Memory.risingFrom] using hi
  | cons cell m ih =>
    obtain ⟨k, v⟩ := cell
    simp only [Memory.risingFrom, Bool.and_eq_true, decide_eq_true_eq] at h
    obtain ⟨hlo, hm⟩ := h
    simp only [Memory.write]
    split
    · simp only [Memory.risingFrom, Bool.and_eq_true, decide_eq_true_eq]
      exact ⟨hi, by omega, hm⟩
    · split
      · rename_i hik
        simp only [Memory.risingFrom, Bool.and_eq_true, decide_eq_true_eq]
        exact ⟨hi, by rw [hik]; exact hm⟩
      · simp only [Memory.risingFrom, Bool.and_eq_true, decide_eq_true_eq]
        exact ⟨hlo, ih (k + 1) (by omega) hm⟩

/-- A write keeps the canonical form. -/
theorem Memory.write_wf (m : Memory) (i : Nat) (b : Byte) (h : m.wf = true) : (m.write i b).wf = true :=
  Memory.risingFrom_write m 0 i b (Nat.zero_le i) h

/-- The buffers of the reset state have the canonical form. -/
theorem reset_buffers_wf : State.reset.txBuf.wf = true ∧ State.reset.rxBuf.wf = true := by decide

end Sys2Proof.Machine
end

