-- ==== Sys2Proof/Laws/PerInstr.lean ====
section
/-! SUPPORT. The family `EncodingWellFormed`: the encoding of every instruction passes the checks of 30_encoding.md
R92 and R100. -/

namespace Sys2Proof.Laws.EncodingWellFormed

/-- The instruction's encoding is a well-formed raw encoding. -/
def Statement (i : Instr) : Prop := (encode i).wf = true

theorem nop : Statement .nop := rfl
theorem crcInit : Statement .crcInit := rfl
theorem crcByte (b : Byte) : Statement (.crcByte b) := rfl
theorem crcPad4 : Statement .crcPad4 := rfl
theorem txStartCmd (c : Byte) : Statement (.txStartCmd c) := rfl
theorem txStartRaw : Statement .txStartRaw := rfl
theorem txByte (b : Byte) : Statement (.txByte b) := rfl
theorem txSend : Statement .txSend := rfl
theorem txAbort : Statement .txAbort := rfl
theorem rxFrame : Statement .rxFrame := rfl
theorem rxByte : Statement .rxByte := rfl
theorem rxAckFrame : Statement .rxAckFrame := rfl
theorem sreset : Statement .sreset := rfl
theorem getHelp : Statement .getHelp := rfl
theorem getID : Statement .getID := rfl
theorem getVersion : Statement .getVersion := rfl
theorem eraseFlash : Statement .eraseFlash := rfl
theorem flashApplication : Statement .flashApplication := rfl
theorem addressJump : Statement .addressJump := rfl
theorem sayHi : Statement .sayHi := rfl
theorem sayBye : Statement .sayBye := rfl
theorem writeData : Statement .writeData := rfl

end Sys2Proof.Laws.EncodingWellFormed
end

