-- ==== Sys2Proof/Laws/Rx.lean ====
section
/-! SUPPORT. The laws of the RX unit: everything each shared operation can do. -/

namespace Sys2Proof.Machine

/-- Everything an arm can do (R191 to R193). -/
theorem arm_cases (m : RxMode) (s : State) :
    (s.rxState ≠ .idle ∧ arm m s = raise .errState s) ∨
      (s.rxState = .idle ∧
        arm m s =
          lower .rxTimeout (lower .rxDone
            { s with
              rxMode := m, rxState := .waitFirst, rxCnt := 0, rxLen := 0, ackOk := false, rxCtr := s.rxTmo })) := by
  by_cases h : s.rxState = .idle
  · exact .inr ⟨h, by unfold arm; rw [if_neg (by simpa using h)]⟩
  · exact .inl ⟨h, by unfold arm; rw [if_pos h]⟩

/-- Everything a length byte can do (R195). -/
theorem takeLength_cases (b : Byte) (s : State) :
    (b = 0 ∧ takeLength b s = raise .rxDone { s with rxLen := b, rxState := .idle }) ∨
      (b ≠ 0 ∧ takeLength b s = { s with rxLen := b, rxState := .waitBody, rxCtr := s.rxTmo }) := by
  by_cases h : b = 0
  · exact .inl ⟨h, by unfold takeLength; rw [if_pos h]⟩
  · exact .inr ⟨h, by unfold takeLength; rw [if_neg h]⟩

/-- Everything a body byte can do (R197). -/
theorem takeBody_cases (b : Byte) (s : State) :
    (s.rxCnt + 1 = s.rxLen.toNat ∧
      takeBody b s =
        raise .rxDone { s with rxBuf := s.rxBuf.write s.rxCnt b, rxCnt := s.rxCnt + 1, rxState := .idle }) ∨
      (s.rxCnt + 1 ≠ s.rxLen.toNat ∧
        takeBody b s = { s with rxBuf := s.rxBuf.write s.rxCnt b, rxCnt := s.rxCnt + 1 }) := by
  by_cases h : s.rxCnt + 1 = s.rxLen.toNat
  · exact .inl ⟨h, by unfold takeBody; rw [if_pos h]⟩
  · exact .inr ⟨h, by unfold takeBody; rw [if_neg h]⟩

/-- What a byte that completes a receive does, whatever the receive waits for: the unit is IDLE and RX_DONE is the one
event bit it sets (R195 to R197). -/
theorem rxArrive_completes {b : Byte} {s : State} (h : completesReceive b s = true) :
    (rxArrive b s).rxState = .idle ∧ (rxArrive b s).ev = s.ev.put .rxDone true := by
  unfold completesReceive at h
  split at h
  · cases h
  · rename_i hs hm
    rcases takeLength_cases b s with ⟨-, e⟩ | ⟨hb, -⟩
    · rw [rxArrive_frame b hs hm, e]; exact ⟨rfl, rfl⟩
    · exact absurd (by simpa using h) hb
  · rename_i hs hm
    rw [rxArrive_byte b hs hm]; exact ⟨rfl, rfl⟩
  · rename_i hs hm
    rw [rxArrive_ackFrame b hs hm, takeAck, if_neg (by simpa [isAck, ackByte] using h)]; exact ⟨rfl, rfl⟩
  · rename_i hs
    rcases takeBody_cases b s with ⟨-, e⟩ | ⟨hl, -⟩
    · rw [rxArrive_body b hs, e]; exact ⟨rfl, rfl⟩
    · exact absurd (by simpa using h) hl

/-- Everything a tick can do (R198, R199). -/
theorem tick_cases (s : State) :
    (¬ (s.rxState ≠ .idle ∧ s.txState = .idle) ∧ tick s = s) ∨
      (s.rxState ≠ .idle ∧ s.txState = .idle ∧ s.rxCtr = 0 ∧ tick s = expire s) ∨
      (s.rxState ≠ .idle ∧ s.txState = .idle ∧ s.rxCtr ≠ 0 ∧ tick s = { s with rxCtr := s.rxCtr - 1 }) := by
  by_cases h : s.rxState ≠ .idle ∧ s.txState = .idle
  · by_cases hc : s.rxCtr = 0
    · exact .inr (.inl ⟨h.1, h.2, hc, by unfold tick; rw [if_pos h, if_pos hc]⟩)
    · exact .inr (.inr ⟨h.1, h.2, hc, by unfold tick; rw [if_pos h, if_neg hc]⟩)
  · exact .inl ⟨h, by unfold tick; rw [if_neg h]⟩

end Sys2Proof.Machine
end

