-- ==== Sys2Proof/Laws/Step.lean ====
section
/-! SUPPORT. The laws of a step and of a run over a list of agents' steps: later proofs cite these and unfold neither
`step` nor `Host.Core.run`. -/

namespace Sys2Proof.Machine

theorem step_nil {s : State} (h : s.pending = []) : step s = .next (quiet s) := by
  unfold step; rw [h]

theorem step_cons {s : State} {e : Event} {es : List Event} (h : s.pending = e :: es) :
    step s = act e { s with pending := es } := by
  unfold step; rw [h]

/-- Continue an outcome that answers a next state. -/
def andThen (o : Host.Outcome State Fault Refusal) (f : State → Host.Outcome State Fault Refusal) :
    Host.Outcome State Fault Refusal :=
  match o with
  | .next s => f s
  | .fault r => .fault r
  | .refused r => .refused r

@[simp] theorem andThen_next (s : State) (f : State → Host.Outcome State Fault Refusal) :
    andThen (.next s) f = f s := rfl

theorem runSteps_nil (s : State) : runSteps [] s = .next s := rfl

theorem core_run_succ (k : Nat) (s : State) :
    (Sys2Proof.core.run (k + 1) s : Host.Outcome State Fault Refusal) =
      andThen (step s) (Sys2Proof.core.run k) := by
  show Host.Core.run Sys2Proof.core (k + 1) s = _
  cases hs : step s with
  | next t =>
    have h : Sys2Proof.core.step s = .next t := hs
    simp only [Host.Core.run, h]; rfl
  | fault r =>
    have h : Sys2Proof.core.step s = .fault r := hs
    simp only [Host.Core.run, h]; rfl
  | refused r =>
    have h : Sys2Proof.core.step s = .refused r := hs
    simp only [Host.Core.run, h]; rfl

/-- A run over `e :: es` is the step `e`, then the run over `es`. -/
theorem runSteps_cons (e : Event) (es : List Event) (s : State) :
    runSteps (e :: es) s = andThen (act e s) (runSteps es) := by
  have hrun : runSteps (e :: es) s =
      andThen (act e { s with pending := es ++ s.pending }) (Sys2Proof.core.run es.length) := by
    rw [← step_cons (s := { s with pending := e :: (es ++ s.pending) }) rfl]
    exact core_run_succ es.length _
  rw [hrun, act_pending]
  cases h : act e s with
  | next t => rw [show t = { t with pending := s.pending } by rw [← act_next_pending h]]; rfl
  | fault r => rfl
  | refused r => rfl

theorem runSteps_append (xs ys : List Event) (s : State) :
    runSteps (xs ++ ys) s = andThen (runSteps xs s) (runSteps ys) := by
  induction xs generalizing s with
  | nil => rfl
  | cons x xs ih =>
    rw [List.cons_append, runSteps_cons, runSteps_cons]
    cases act x s with
    | next t => exact ih t
    | fault r => rfl
    | refused r => rfl

theorem execAll_nil (s : State) : execAll [] s = .next s := rfl

theorem execAll_cons (i : Instr) (is : List Instr) (s : State) :
    execAll (i :: is) s = execAll is (execState i s) := by
  simp only [execAll, exec_eq]

/-- A list of instructions always completes. -/
theorem execAll_next (is : List Instr) (s : State) : ∃ t, execAll is s = .next t := by
  induction is generalizing s with
  | nil => exact ⟨s, rfl⟩
  | cons i is ih => rw [execAll_cons]; exact ih _

end Sys2Proof.Machine
end

