-- ==== Sys2Proof/Laws/Tx.lean ====
section
/-! SUPPORT. The laws of the TX unit: the body under the operations that write it, and everything each shared operation
can do. -/

namespace Sys2Proof.Machine

@[simp] theorem txBody_length (s : State) : (txBody s).length = s.txCnt := by simp [txBody]

/-- The body is a function of `tx_buf` and `tx_cnt` alone. -/
theorem txBody_congr {s t : State} (hb : t.txBuf = s.txBuf) (hc : t.txCnt = s.txCnt) : txBody t = txBody s := by
  unfold txBody txBufByte; rw [hb, hc]

/-- A started command frame has the command byte as its body (R161). -/
theorem txBody_of_command {s : State} {m : Memory} {c : Byte} (hb : s.txBuf = m.write 0 c) (hc : s.txCnt = 1) :
    txBody s = [c] := by
  simp [txBody, txBufByte, hb, hc]

/-- A started raw frame has an empty body (R162). -/
theorem txBody_of_raw {s : State} (hc : s.txCnt = 0) : txBody s = [] := by simp [txBody, hc]

/-- A byte taken into the buffer goes at the end of the body (R163). -/
theorem txBody_of_append {s t : State} {b : Byte} (hb : t.txBuf = s.txBuf.write s.txCnt b)
    (hc : t.txCnt = s.txCnt + 1) : txBody t = txBody s ++ [b] := by
  unfold txBody
  rw [hc, List.range_succ, List.map_append]
  congr 1
  · apply List.map_congr_left
    intro i hi
    have hne : i ≠ s.txCnt := by simp at hi; omega
    simp [txBufByte, hb, Memory.read_write_other _ _ _ _ hne]
  · simp [txBufByte, hb]

theorem startCommand_sending {c : Byte} {s : State} (h : s.txState = .sending) :
    startCommand c s = raise .errState s := by
  simp [startCommand, h]

theorem startCommand_refused {c : Byte} {s : State} (h : s.txState ≠ .sending)
    (hc : c.toNat < 1 ∨ 9 < c.toNat) : startCommand c s = raise .errArg s := by
  unfold startCommand; rw [if_neg h, if_pos hc]

theorem startCommand_ok {c : Byte} {s : State} (h : s.txState ≠ .sending) (h1 : 1 ≤ c.toNat)
    (h9 : c.toNat ≤ 9) :
    startCommand c s =
      lower .txDone
        { s with txKind := .cmd, txBuf := s.txBuf.write 0 c, txCnt := 1, txPos := 0, txState := .opened } := by
  unfold startCommand; rw [if_neg h, if_neg (by omega)]

/-- Everything a command start can do (R161). -/
theorem startCommand_cases (c : Byte) (s : State) :
    startCommand c s = raise .errState s ∨ startCommand c s = raise .errArg s ∨
      (s.txState ≠ .sending ∧ 1 ≤ c.toNat ∧ c.toNat ≤ 9 ∧
        startCommand c s =
          lower .txDone
            { s with txKind := .cmd, txBuf := s.txBuf.write 0 c, txCnt := 1, txPos := 0, txState := .opened }) := by
  by_cases h : s.txState = .sending
  · exact .inl (startCommand_sending h)
  · by_cases hc : c.toNat < 1 ∨ 9 < c.toNat
    · exact .inr (.inl (startCommand_refused h hc))
    · have h1 : 1 ≤ c.toNat := by omega
      have h9 : c.toNat ≤ 9 := by omega
      exact .inr (.inr ⟨h, h1, h9, startCommand_ok h h1 h9⟩)

/-- Everything a raw start can do (R162). -/
theorem startRaw_cases (s : State) :
    (s.txState = .sending ∧ startRaw s = raise .errState s) ∨
      (s.txState ≠ .sending ∧
        startRaw s = lower .txDone { s with txKind := .raw, txCnt := 0, txPos := 0, txState := .opened }) := by
  by_cases h : s.txState = .sending
  · exact .inl ⟨h, by simp [startRaw, h]⟩
  · exact .inr ⟨h, by unfold startRaw; rw [if_neg h]⟩

/-- Everything a body byte can do (R163). -/
theorem appendByte_cases (b : Byte) (s : State) :
    (s.txState ≠ .opened ∧ appendByte b s = raise .errState s) ∨
      (s.txState = .opened ∧ s.txCnt = Config.pTxcap ∧
        appendByte b s = raise .txOvf { s with txState := .idle, txCnt := 0 }) ∨
      (s.txState = .opened ∧ s.txCnt ≠ Config.pTxcap ∧
        appendByte b s = { s with txBuf := s.txBuf.write s.txCnt b, txCnt := s.txCnt + 1 }) := by
  by_cases h : s.txState = .opened
  · by_cases hc : s.txCnt = Config.pTxcap
    · exact .inr (.inl ⟨h, hc, by unfold appendByte; rw [if_neg (by simpa using h), if_pos hc]⟩)
    · exact .inr (.inr ⟨h, hc, by unfold appendByte; rw [if_neg (by simpa using h), if_neg hc]⟩)
  · exact .inl ⟨h, by unfold appendByte; rw [if_pos h]⟩

/-- Everything a send can do (R164). -/
theorem sendFrame_cases (s : State) :
    (s.txState ≠ .opened ∧ sendFrame s = raise .errState s) ∨
      (s.txState = .opened ∧ s.txCnt + 4 > 255 ∧ sendFrame s = raise .lwrap (fixFrame s)) ∨
      (s.txState = .opened ∧ s.txCnt + 4 ≤ 255 ∧ sendFrame s = fixFrame s) := by
  by_cases h : s.txState = .opened
  · by_cases hc : s.txCnt + 4 > 255
    · exact .inr (.inl ⟨h, hc, by unfold sendFrame; rw [if_neg (by simpa using h), if_pos hc]⟩)
    · exact .inr (.inr ⟨h, by omega, by unfold sendFrame; rw [if_neg (by simpa using h), if_neg hc]⟩)
  · exact .inl ⟨h, by unfold sendFrame; rw [if_pos h]⟩

/-- Everything an abort can do (R165). -/
theorem abortFrame_cases (s : State) :
    (s.txState = .sending ∧ abortFrame s = raise .errState s) ∨
      (s.txState = .opened ∧ abortFrame s = { s with txState := .idle, txCnt := 0 }) ∨
      (s.txState = .idle ∧ abortFrame s = s) := by
  cases h : s.txState
  · exact .inr (.inr ⟨rfl, by simp [abortFrame, h]⟩)
  · exact .inr (.inl ⟨rfl, by simp [abortFrame, h]⟩)
  · exact .inl ⟨rfl, by simp [abortFrame, h]⟩

/-- Everything a cycle with `tx_ready = 1` can do (R75, R166, R167). -/
theorem txAccept_cases (s : State) :
    (s.txState ≠ .sending ∧ txAccept s = .next s) ∨
      (s.txState = .sending ∧ s.txSeq.length ≤ s.txPos ∧ txAccept s = .fault .txSeqExhausted) ∨
      (s.txState = .sending ∧ ∃ h : s.txPos < s.txSeq.length,
        txAccept s = .next (emitByte (s.txSeq[s.txPos]'h) s)) := by
  by_cases h : s.txState = .sending
  · by_cases hp : s.txPos < s.txSeq.length
    · exact .inr (.inr ⟨h, hp, by simp [txAccept, h, hp]⟩)
    · exact .inr (.inl ⟨h, by omega, by simp [txAccept, h, hp]⟩)
  · exact .inl ⟨h, by simp [txAccept, h]⟩

end Sys2Proof.Machine
end

