-- ==== Sys2Proof/Machine/Assembler.lean ====
section
/-! DEFINITION. The text of a host program: the syntax of 30_encoding.md R103, the pseudo-instructions of R104 and the
scenario lines of R105, read into the lines whose steps HostProgram.lean gives (assumption log 23). -/

namespace Sys2Proof.Machine

/-- A line without its comment, which `;` begins (R103). -/
def dropComment : List Char → List Char
  | [] => []
  | c :: cs => if c = ';' then [] else c :: dropComment cs

/-- Whether a character parts two words of a line. -/
def isGap (c : Char) : Bool := c == ' ' || c == '\t' || c == ','

/-- The words of a line; `cur` is the word being read, its last character first. -/
def wordsFrom (cur : List Char) : List Char → List String
  | [] => if cur.isEmpty then [] else [String.ofList cur.reverse]
  | c :: cs =>
    if isGap c then
      (if cur.isEmpty then wordsFrom [] cs else String.ofList cur.reverse :: wordsFrom [] cs)
    else wordsFrom (c :: cur) cs

/-- The words of a line of text, its comment dropped. -/
def lineWords (text : String) : List String := wordsFrom [] (dropComment text.toList)

/-- The value of a digit, at most 15. -/
def digitValue (c : Char) : Option Nat :=
  if '0' ≤ c ∧ c ≤ '9' then some (c.toNat - '0'.toNat)
  else if 'a' ≤ c ∧ c ≤ 'f' then some (c.toNat - 'a'.toNat + 10)
  else if 'A' ≤ c ∧ c ≤ 'F' then some (c.toNat - 'A'.toNat + 10)
  else none

/-- Read digits of a base after the value `acc`. -/
def digitsFrom (base acc : Nat) : List Char → Option Nat
  | [] => some acc
  | c :: cs =>
    match digitValue c with
    | some d => if d < base then digitsFrom base (acc * base + d) cs else none
    | none => none

/-- A number in decimal or in `0x` hex (R103). -/
def numberOf (w : String) : Option Nat :=
  match w.toList with
  | [] => none
  | ['0', 'x'] => none
  | '0' :: 'x' :: ds => digitsFrom 16 0 ds
  | ds => digitsFrom 10 0 ds

/-- `imm8`, a number 0 to 255 (R103). -/
def imm8Of (w : String) : Option Byte := (numberOf w).bind fun n => if n < 0x100 then some (BitVec.ofNat 8 n) else none

/-- `imm32`. -/
def imm32Of (w : String) : Option Word :=
  (numberOf w).bind fun n => if n < 0x100000000 then some (BitVec.ofNat 32 n) else none

/-- A byte of a scenario line, in hex without a prefix (00_scope.md R7, R105). -/
def hexByteOf (w : String) : Option Byte :=
  (digitsFrom 16 0 w.toList).bind fun n => if n < 0x100 then some (BitVec.ofNat 8 n) else none

/-- The registers with a name of their own (20_memory.md R62). -/
def namedRegs : List (String × Reg) :=
  [.cmd, .status, .irqEn, .rxTmo, .crcAcc, .crcCnt, .txCnt, .txPos, .txLen, .txCrc, .rxLen, .rxCnt].map
    fun r : Reg => (r.name, r)

/-- The index of `RX_BUF[k]`. -/
def rxBufIndexOf (w : String) : Option Nat :=
  match w.toList with
  | 'R' :: 'X' :: '_' :: 'B' :: 'U' :: 'F' :: '[' :: rest =>
    if rest.getLast? = some ']' then (numberOf (String.ofList rest.dropLast)).filter (· ≤ 63) else none
  | _ => none

/-- A register by its name, as `RX_BUF[k]`, or by its offset (R103). -/
def regOf (w : String) : Option Reg :=
  match namedRegs.lookup w with
  | some r => some r
  | none =>
    match rxBufIndexOf w with
    | some k => some (.rxBuf k)
    | none => (numberOf w).bind fun n => accessedReg n .word

/-- The mnemonics that take no operand (R103). -/
def plainMnemonics : List (String × Instr) :=
  [.nop, .crcInit, .crcPad4, .txStartRaw, .txSend, .txAbort, .rxFrame, .rxByte, .rxAckFrame, .sreset].map
    fun i : Instr => (asmName i, i)

/-- Read every word of a list, or none where one of them cannot be read. -/
def readAll {α : Type} (f : String → Option α) : List String → Option (List α)
  | [] => some []
  | w :: ws =>
    match f w, readAll f ws with
    | some a, some as => some (a :: as)
    | _, _ => none

/-- The line that a list of words stands for; `reads` is what the scenario makes of a `wait`. -/
def lineOfWords (reads : Nat) : List String → Option Line
  | ["crc.byte", b] => (imm8Of b).map fun b => .op (.crcByte b)
  | ["tx.cmd", c] => (imm8Of c).map fun c => .op (.txStartCmd c)
  | ["tx.byte", b] => (imm8Of b).map fun b => .op (.txByte b)
  | ["wr", r, v] => (regOf r).bind fun r => (imm32Of v).map fun v => .wr r v
  | ["rd", r] => (regOf r).map .rd
  | ["clr.status"] => some .clrStatus
  | ["wait", r, m, v] =>
    (regOf r).bind fun r => (imm32Of m).bind fun m => (imm32Of v).map fun v => .wait r m v reads
  | "crc.bytes" :: bs => if bs.isEmpty then none else (readAll imm8Of bs).map .crcBytes
  | "tx.frame" :: c :: ps => (imm8Of c).bind fun c => (readAll imm8Of ps).map fun ps => .txFrame c ps
  | "tx.chunk" :: ps => if ps.isEmpty then none else (readAll imm8Of ps).map .txChunk
  | ["@accept", n] => (numberOf n).map .accept
  | "@rx" :: bs => if bs.isEmpty then none else (readAll hexByteOf bs).map .rx
  | ["@tick", n] => (numberOf n).map .ticks
  | [w] => (plainMnemonics.lookup w).map .op
  | _ => none

/-- The line a text stands for, or none where it is no line of the syntax. -/
def parseLine (reads : Nat) (text : String) : Option Line := lineOfWords reads (lineWords text)

/-- The lines of a program, one text a line; a line with no word is skipped. None where some line is not of the
syntax. -/
def parseProgram (reads : Nat) : List String → Option (List Line)
  | [] => some []
  | text :: rest =>
    if (lineWords text).isEmpty then parseProgram reads rest
    else
      match parseLine reads text, parseProgram reads rest with
      | some l, some ls => some (l :: ls)
      | _, _ => none

/-- The steps of a program given as text (R103 to R105). -/
def assembleText (reads : Nat) (texts : List String) : Option (List Event) := (parseProgram reads texts).map assemble

end Sys2Proof.Machine
end

