-- ==== Sys2Proof/Tests/Slice0.lean ====
section
/-! SUPPORT. The tests: the WellFormed smoke, a word of every constructor written out from 30_encoding.md R90, R93 and
R100, one-step tests whose results are the vectors of 95_test_vectors.md, and for each statement with hypotheses a witness
that meets them. -/

namespace Sys2Proof.Tests

open Sys2Proof.Machine

set_option Elab.async false

/-! ## Helpers -/

/-- What a field shows after an outcome that answers a next state. -/
def after {α : Type} (o : Host.Outcome State Fault Refusal) (f : State → α) : Option α :=
  match o with
  | .next s => some (f s)
  | _ => none

/-- A state in which one agent's step is waiting. -/
def waiting (e : Event) (s : State) : State := { s with pending := [e] }

/-- The step that writes a word to `CMD`. -/
def cmdWrite (w : Word) : Event := .host (.write (.offset 0x000) .word w)

/-- `STATUS` as the host reads it. -/
def status (s : State) : Word := regRead s .status

/-- A TX buffer holding a body. -/
def bufferOf (bs : List Byte) : Memory := bs.zipIdx.map fun p => (p.2, p.1)

/-- An open raw frame with a body. -/
def openRaw (bs : List Byte) : State :=
  { State.reset with txState := .opened, txKind := .raw, txBuf := bufferOf bs, txCnt := bs.length }

/-- An open raw frame that counts `n` body bytes. -/
def openCount (n : Nat) : State := { State.reset with txState := .opened, txKind := .raw, txCnt := n }

/-- An open command frame with a body. -/
def openCmd (bs : List Byte) : State := { openRaw bs with txKind := .cmd }

/-- The GetHelp frame being sent, with `n` of its six bytes accepted (T1). -/
def sendingHelp (n : Nat) : State :=
  { openCmd [0x01] with
    txState := .sending
    txSeq := [0x05, 0x01, 0xCC, 0x47, 0x69, 0x1B]
    txPos := n
    txLen := 5
    txCrc := 0x1B6947CC
    sink := [0x05, 0x01, 0xCC, 0x47, 0x69, 0x1B].take n }

/-- A receive that waits for its first byte, the countdown at `k`. -/
def armed (m : RxMode) (k : Word) : State :=
  { State.reset with rxState := .waitFirst, rxMode := m, rxTmo := k, rxCtr := k }

/-- A receive that waits for body byte `n` of `len`. -/
def inBody (n : Nat) (len : Byte) : State :=
  { State.reset with
    rxState := .waitBody, rxTmo := 3, rxCtr := 3, rxCnt := n, rxLen := len
    rxBuf := bufferOf (List.replicate n 0x0A) }

/-- Every event bit set. -/
def allEvents : Events := Events.ofWord 0x00073F00

/-- The machine at reset but with every event bit set. -/
def everyEvent : State := { State.reset with ev := allEvents }

/-- A state whose countdown has run down, so that the next tick expires the wait. -/
def expiring (s : State) : State := { s with rxCtr := 0 }

/-- The last byte of the GetHelp frame is offered, and a receive waits with the countdown at `k`. -/
def lastByteArmed (k : Word) : State := { sendingHelp 5 with rxState := .waitFirst, rxCtr := k }

/-- RX unit IDLE with a countdown of three ticks at the next arm. -/
def idle3 : State := { State.reset with rxTmo := 3 }

/-! ## Ill-formed encodings are refused (30_encoding.md R92, R94, R100) -/

theorem test_rsv_nonzero_refused :
    (Code.cmd 0x01 0 1).rsvClear = false ∧ (Code.cmd 0x01 0 1).wf = false ∧
      decodeCmd 0x00010001 = .error .nonzeroRsv := by decide

theorem test_reserved_opc_refused :
    (Code.cmd 0x04 0 0).assigned = false ∧ (Code.cmd 0x04 0 0).wf = false ∧
      decodeCmd 0x00000004 = .error .reservedOpc ∧ decodeCmd 0x000000FF = .error .reservedOpc := by decide

theorem test_nonzero_arg_refused :
    (Code.cmd 0x13 1 0).argAllowed = false ∧ (Code.cmd 0x13 1 0).wf = false ∧
      decodeCmd 0x00000113 = .error .nonzeroArg ∧ decodeCmd 0x0000015A = .error .nonzeroArg := by decide

theorem test_wire_byte_outside_refused :
    (Code.wire 0).assigned = false ∧ (Code.wire 0).wf = false ∧ (Code.wire 10).wf = false ∧
      decodeWire 0 = .error .notWireCommand ∧ decodeWire 10 = .error .notWireCommand := by decide

theorem test_bad_length_refused : decodeBytes [0x01, 0x00] = .error .badLength := by decide

theorem test_first_failing_check_is_the_reason :
    decodeCmd 0x00010104 = .error .nonzeroRsv ∧ decodeCmd 0x00000104 = .error .reservedOpc := by decide

/-! ## Every constructor's encoding, bit by bit -/

theorem test_decode_nop : decodeCmd 0b00000000000000000000000000000000 = .ok .nop := by decide
theorem test_decode_crcInit : decodeCmd 0b00000000000000000000000000000001 = .ok .crcInit := by decide
theorem test_decode_crcByte : decodeCmd 0b00000000000000000011000100000010 = .ok (.crcByte 0x31) := by decide
theorem test_decode_crcPad4 : decodeCmd 0b00000000000000000000000000000011 = .ok .crcPad4 := by decide
theorem test_decode_txStartCmd : decodeCmd 0b00000000000000000000101000010000 = .ok (.txStartCmd 0x0A) := by decide
theorem test_decode_txStartRaw : decodeCmd 0b00000000000000000000000000010001 = .ok .txStartRaw := by decide
theorem test_decode_txByte : decodeCmd 0b00000000000000001111101000010010 = .ok (.txByte 0xFA) := by decide
theorem test_decode_txSend : decodeCmd 0b00000000000000000000000000010011 = .ok .txSend := by decide
theorem test_decode_txAbort : decodeCmd 0b00000000000000000000000000010100 = .ok .txAbort := by decide
theorem test_decode_rxFrame : decodeCmd 0b00000000000000000000000000100000 = .ok .rxFrame := by decide
theorem test_decode_rxByte : decodeCmd 0b00000000000000000000000000100001 = .ok .rxByte := by decide
theorem test_decode_rxAckFrame : decodeCmd 0b00000000000000000000000000100010 = .ok .rxAckFrame := by decide
theorem test_decode_sreset : decodeCmd 0b00000000000000000000000001011010 = .ok .sreset := by decide
theorem test_decode_getHelp : decodeWire 0b00000001 = .ok .getHelp := by decide
theorem test_decode_getID : decodeWire 0b00000010 = .ok .getID := by decide
theorem test_decode_getVersion : decodeWire 0b00000011 = .ok .getVersion := by decide
theorem test_decode_eraseFlash : decodeWire 0b00000100 = .ok .eraseFlash := by decide
theorem test_decode_flashApplication : decodeWire 0b00000101 = .ok .flashApplication := by decide
theorem test_decode_addressJump : decodeWire 0b00000110 = .ok .addressJump := by decide
theorem test_decode_sayHi : decodeWire 0b00000111 = .ok .sayHi := by decide
theorem test_decode_sayBye : decodeWire 0b00001000 = .ok .sayBye := by decide
theorem test_decode_writeData : decodeWire 0b00001001 = .ok .writeData := by decide

/-- The four lanes of a command word, the lowest first (20_memory.md R67). -/
theorem test_decode_lanes : decodeBytes [0x02, 0x31, 0x00, 0x00] = .ok (.crcByte 0x31) := by decide

/-- The rows of the opcode table: a command word, a wire byte, and the operand in bits 15 to 8. -/
theorem test_decodeTableWord :
    decodeTableWord 32 0x3102 = some (.crcByte 0x31) ∧ decodeTableWord 8 0x04 = some .eraseFlash ∧
      decodeTableWord 32 0x4 = none ∧ decodeTableWord 8 0x0A = none := by decide

/-- Program P1's and P3's command words (95_test_vectors.md). -/
theorem test_encode_words :
    encodeWord (.crcByte 0x39) = 0x00003902 ∧ encodeWord (.txByte 0x1F) = 0x00001F12 ∧
      encodeWord (.txStartCmd 4) = 0x00000410 ∧ encodeWord .rxAckFrame = 0x00000022 := by decide

/-- `withFetchWord` puts the instruction in front of what waits. -/
theorem test_withFetchWord_runs_crcByte :
    after (step (State.reset.withFetchWord 32 0x00000202)) (fun t => regRead t .crcAcc) = some 0x478A84DA := by
  decide +kernel

theorem test_withFetchWord_runs_wire_byte :
    after (step (State.reset.withFetchWord 8 0x02)) (fun t => (status t, txBody t)) = some (0x2, [0x02]) := by
  decide +kernel

/-! ## The CRC function and unit (95_test_vectors.md section 2.1) -/

theorem test_crcStep_vectors :
    crcStep 0xFFFFFFFF 0x31 = 0x9EFBCF93 ∧ crcStep 0xFFFFFFFF 0x80 = 0x27045F5A ∧
      crcStep 0x0376E6E7 0x00 = 0x7BA5C1D9 ∧ crcStep 0x12345678 0xAB = 0xABA10571 := by decide +kernel

theorem test_crc32_check_value :
    crc32 [0x31, 0x32, 0x33, 0x34, 0x35, 0x36, 0x37, 0x38, 0x39] = 0x0376E6E7 ∧ crc32 [] = 0xFFFFFFFF ∧
      crc32 [0xFF, 0xFF, 0xFF, 0xFF] = 0 := by decide +kernel

/-- T15's frame, and S7's chunk frame. -/
theorem test_frames :
    chunkFrame [0x01, 0x02, 0x03, 0x04, 0x05] = [0x09, 0x01, 0x02, 0x03, 0x04, 0x05, 0x08, 0xF5, 0x1F, 0x01] ∧
      chunkFrame [0x00, 0x01, 0x02, 0x03, 0x04, 0x05, 0x06, 0x07, 0x08, 0x09] =
        [0x0E, 0x00, 0x01, 0x02, 0x03, 0x04, 0x05, 0x06, 0x07, 0x08, 0x09, 0x67, 0x82, 0x79, 0xAC] := by
  decide +kernel

theorem test_image_crc :
    imageBuffer 8 [0x01, 0x02, 0x03, 0x04, 0x05] = [0x04, 0x03, 0x02, 0x01, 0xFF, 0xFF, 0xFF, 0x05] ∧
      imageCrcFor 8 [0x01, 0x02, 0x03, 0x04, 0x05] = .ok 0xCCD0E62C ∧
      imageCrcFor 4 [0x01, 0x02, 0x03, 0x04, 0x05] = .error .imageTooLong := by decide +kernel

/-- S5's version word (44_wire_commands.md R249). -/
theorem test_version_word : versionWord 7 2 5 = 0x05020700 := by decide

/-- R202: `02 AB CD` is the body `AB CD`; a body that stops short is none. -/
theorem test_decode_length_prefixed :
    decodeLengthPrefixed [0x02, 0xAB, 0xCD] = some [0xAB, 0xCD] ∧ decodeLengthPrefixed [0x00] = some [] ∧
      decodeLengthPrefixed [0x02, 0xAB] = none ∧ decodeLengthPrefixed [] = none := by decide

/-- K1. -/
theorem test_nop_changes_nothing :
    after (step (waiting (cmdWrite 0x00000000) (openRaw [0x01]))) (fun t => (status t, t.txCnt, t.crcCnt)) =
      some (0x2, 1, 0) := by decide +kernel

/-- V6's second command. -/
theorem test_crcInit_discards :
    after (step (waiting (cmdWrite 0x00000001) { State.reset with crcAcc := 0x12345678, crcCnt := 1 }))
      (fun t => (regRead t .crcAcc, regRead t .crcCnt)) = some (0xFFFFFFFF, 0) := by decide +kernel

/-- V2. -/
theorem test_crcByte_folds :
    after (step (waiting (cmdWrite 0x00000202) State.reset)) (fun t => (regRead t .crcAcc, regRead t .crcCnt)) =
      some (0x478A84DA, 1) := by decide +kernel

/-- V8. -/
theorem test_crcByte_count_wraps :
    after (step (waiting (cmdWrite 0x00000002) { State.reset with crcCnt := 0xFFFFFFFF }))
      (fun t => regRead t .crcCnt) = some 0 := by decide +kernel

/-- V3's second command. -/
theorem test_crcPad4_pads :
    after (step (waiting (cmdWrite 0x00000003) { State.reset with crcAcc := 0x478A84DA, crcCnt := 1 }))
      (fun t => (regRead t .crcAcc, regRead t .crcCnt)) = some (0x7B1EF5A2, 4) := by decide +kernel

/-- V1. -/
theorem test_crcPad4_at_zero :
    after (step (waiting (cmdWrite 0x00000003) State.reset)) (fun t => (regRead t .crcAcc, regRead t .crcCnt)) =
      some (0xFFFFFFFF, 0) := by decide +kernel

/-- R303: one second in ticks, less 1, for periods of 1/2, 61/2 and 1000 microseconds. -/
theorem test_ticksOf_one_second :
    ticksOf (1 / 2) 1000000 = 1999999 ∧ ticksOf (61 / 2) 1000000 = 32785 ∧ ticksOf 1000 1000000 = 999 := by
  decide +kernel

/-! ## The TX unit (95_test_vectors.md section 2.2) -/

/-- T24. -/
theorem test_txStartCmd_ten_is_refused :
    after (step (waiting (cmdWrite 0x00000A10) State.reset)) (fun t => (status t, t.txCnt)) =
      some (0x00040000, 0) := by decide +kernel

/-- T25's second command. -/
theorem test_txStartCmd_restarts :
    after (step (waiting (cmdWrite 0x00000210) (openRaw [0x09, 0x08]))) (fun t => (status t, t.txCnt, txBody t)) =
      some (0x2, 1, [0x02]) := by decide +kernel

/-- T29's last command: refused while SENDING. -/
theorem test_txStartRaw_refused_while_sending :
    after (step (waiting (cmdWrite 0x00000011) (sendingHelp 0))) (fun t => (status t, t.txKind, t.txCnt)) =
      some (0x00020001, .cmd, 1) := by decide +kernel

theorem test_txStartRaw_opens :
    after (step (waiting (cmdWrite 0x00000011) (openCmd [0x02]))) (fun t => (status t, t.txKind, t.txCnt)) =
      some (0x2, .raw, 0) := by decide +kernel

/-- T20. -/
theorem test_txByte_in_idle :
    after (step (waiting (cmdWrite 0x00000112) State.reset)) (fun t => (status t, t.txCnt)) =
      some (0x00020000, 0) := by decide +kernel

/-- T27's last byte. -/
theorem test_txByte_overflow :
    after (step (waiting (cmdWrite 0x00000012) (openCount Config.pTxcap)))
      (fun t => (t.txState, t.txCnt, t.ev.txOvf, t.ev.errState)) = some (.idle, 0, true, false) := by
  have h : step (waiting (cmdWrite 0x00000012) (openCount Config.pTxcap)) =
      exec (.txByte 0) (respond .written { openCount Config.pTxcap with pending := [] }) := rfl
  rw [h, exec_eq]
  simp only [execState, appendByte, respond, openCount]
  simp [after, raise, Events.put, State.reset, Events.none]

/-- T11. -/
theorem test_txSend_erase_frame :
    after (step (waiting (cmdWrite 0x00000013) (openCmd [0x04, 0x1F, 0x01])))
      (fun t => (t.txSeq, regRead t .txLen, regRead t .txCrc)) =
      some ([0x07, 0x04, 0x1F, 0x01, 0x7F, 0xBB, 0xAC, 0x7F], 7, 0x7FACBB7F) := by decide +kernel

/-- T12: the empty body's CRC is `0xFFFFFFFF`. -/
theorem test_txSend_empty_raw :
    after (step (waiting (cmdWrite 0x00000013) (openRaw []))) (fun t => (t.txSeq, status t)) =
      some ([0x04, 0xFF, 0xFF, 0xFF, 0xFF], 0x1) := by decide +kernel

/-- T22. -/
theorem test_txAbort_in_idle :
    after (step (waiting (cmdWrite 0x00000014) State.reset)) status = some 0 := by decide +kernel

/-- T26's last command. -/
theorem test_txAbort_discards :
    after (step (waiting (cmdWrite 0x00000014) (openRaw [0x01]))) (fun t => (status t, t.txCnt, t.sink)) =
      some (0, 0, []) := by decide +kernel

/-- T31: five of six bytes accepted. -/
theorem test_accept_fifth_byte :
    after (step (waiting .txReady (sendingHelp 4))) (fun t => (status t, t.txPos, t.sink)) =
      some (0x1, 5, [0x05, 0x01, 0xCC, 0x47, 0x69]) := by decide +kernel

/-- T1's end. -/
theorem test_accept_last_byte :
    after (step (waiting .txReady (sendingHelp 5))) (fun t => (status t, t.txPos, t.sink)) =
      some (0x100, 6, [0x05, 0x01, 0xCC, 0x47, 0x69, 0x1B]) := by decide +kernel

/-- The nine command bytes open a frame with that byte (44_wire_commands.md R240 to R249). -/
theorem test_wire_getHelp :
    after (step (waiting (.host (.wire 1)) State.reset)) (fun t => (status t, txBody t)) = some (0x2, [0x01]) := by
  decide +kernel

theorem test_wire_getID :
    after (step (waiting (.host (.wire 2)) State.reset)) (fun t => (status t, txBody t)) = some (0x2, [0x02]) := by
  decide +kernel

theorem test_wire_getVersion :
    after (step (waiting (.host (.wire 3)) State.reset)) (fun t => (status t, txBody t)) = some (0x2, [0x03]) := by
  decide +kernel

theorem test_wire_eraseFlash :
    after (step (waiting (.host (.wire 4)) State.reset)) (fun t => (status t, txBody t)) = some (0x2, [0x04]) := by
  decide +kernel

theorem test_wire_flashApplication :
    after (step (waiting (.host (.wire 5)) State.reset)) (fun t => (status t, txBody t)) = some (0x2, [0x05]) := by
  decide +kernel

theorem test_wire_addressJump :
    after (step (waiting (.host (.wire 6)) State.reset)) (fun t => (status t, txBody t)) = some (0x2, [0x06]) := by
  decide +kernel

theorem test_wire_sayHi :
    after (step (waiting (.host (.wire 7)) State.reset)) (fun t => (status t, txBody t)) = some (0x2, [0x07]) := by
  decide +kernel

theorem test_wire_sayBye :
    after (step (waiting (.host (.wire 8)) State.reset)) (fun t => (status t, txBody t)) = some (0x2, [0x08]) := by
  decide +kernel

theorem test_wire_writeData :
    after (step (waiting (.host (.wire 9)) State.reset)) (fun t => (status t, txBody t)) = some (0x2, [0x09]) := by
  decide +kernel

/-- A byte outside the closed set is what `TX_START_CMD` makes of it (T24). -/
theorem test_wire_ten_is_refused :
    after (step (waiting (.host (.wire 10)) State.reset)) (fun t => (status t, t.txCnt)) =
      some (0x00040000, 0) := by decide +kernel

/-! ## The RX unit (95_test_vectors.md section 2.3) -/

/-- X21's last command: the arm clears RX_TIMEOUT and keeps RX_DROP. -/
theorem test_rxFrame_keeps_drop :
    after (step (waiting (cmdWrite 0x00000020) { State.reset with ev := Events.ofWord 0xC00, rxMode := .byte }))
      status = some 0x00000804 := by decide +kernel

/-- X12's second command. -/
theorem test_rxByte_refused_while_armed :
    after (step (waiting (cmdWrite 0x00000021) (armed .frame 9))) status = some 0x00020004 := by decide +kernel

theorem test_rxAckFrame_arms :
    after (step (waiting (cmdWrite 0x00000022) idle3)) (fun t => (status t, t.rxCtr)) =
      some (0x00000024, 3) := by decide +kernel

/-- X1's last byte. -/
theorem test_body_byte_completes :
    after (step (waiting (.rxArrive 0xCD) (inBody 1 2))) (fun t => (status t, regRead t .rxCnt, rxBody t)) =
      some (0x200, 2, [some 0x0A, some 0xCD]) := by decide +kernel

/-- X2. -/
theorem test_length_zero_completes :
    after (step (waiting (.rxArrive 0x00) (armed .frame 3))) (fun t => (status t, regRead t .rxLen)) =
      some (0x200, 0) := by decide +kernel

/-- X4. -/
theorem test_ack_byte :
    after (step (waiting (.rxArrive 0x01) (armed .byte 3))) (fun t => (status t, regRead t .rxLen)) =
      some (0x250, 1) := by decide +kernel

/-- X5. -/
theorem test_nack_byte :
    after (step (waiting (.rxArrive 0x02) (armed .byte 3))) status = some 0x210 := by decide +kernel

/-- X9. -/
theorem test_ackFrame_ack :
    after (step (waiting (.rxArrive 0x01) (armed .ackFrame 3))) (fun t => (status t, t.rxCnt)) =
      some (0x44, 0) := by decide +kernel

/-- X8. -/
theorem test_ackFrame_nack :
    after (step (waiting (.rxArrive 0x02) (armed .ackFrame 3))) (fun t => (status t, t.rxCnt)) =
      some (0x220, 1) := by decide +kernel

/-- X11. -/
theorem test_byte_in_idle_is_dropped :
    after (step (waiting (.rxArrive 0x55) State.reset)) (fun t => (status t, t.rxCnt)) = some (0x800, 0) := by
  decide +kernel

/-- X14's tick. -/
theorem test_tick_expires :
    after (step (waiting .tick (armed .byte 0))) status = some 0x410 := by decide +kernel

/-- X18: a tick while SENDING is held. -/
theorem test_tick_is_held :
    after (step (waiting .tick { sendingHelp 0 with rxState := .waitFirst, rxMode := .byte, rxCtr := 1 }))
      (fun t => (status t, t.rxCtr)) = some (0x15, 1) := by decide +kernel

/-! ## Control and the register window (95_test_vectors.md section 2.4) -/

/-- T30's last command: the elements are at reset, what left the port stays left. -/
theorem test_sreset_mid_frame :
    after (step (waiting (cmdWrite 0x0000005A) (sendingHelp 3)))
      (fun t => (status t, t.txPos, t.txLen, t.txCrc, t.sink)) =
      some (0, 0, 0, 0, [0x05, 0x01, 0xCC]) := by decide +kernel

/-- K7. -/
theorem test_sreset_with_argument_is_no_reset :
    after (step (waiting (cmdWrite 0x0000015A) (openRaw [0x01]))) (fun t => (status t, t.txCnt)) =
      some (0x00010002, 1) := by decide +kernel

/-- K8 and K9. -/
theorem test_status_write_one_to_clear :
    after (step (waiting (.host (.write (.offset 0x004) .word 0x100))
      { State.reset with ev := Events.ofWord 0x300 })) status = some 0x200 := by decide +kernel

/-- K10. -/
theorem test_irqEn_write :
    after (step (waiting (.host (.write (.offset 0x008) .word 0xFFFFFFFF))
      { State.reset with ev := Events.ofWord 0x200 })) (fun t => (regRead t .irqEn, irq t)) =
      some (0x00073F00, true) := by decide +kernel

/-- K13. -/
theorem test_crcAcc_is_read_only :
    after (step (waiting (.host (.write (.offset 0x010) .word 5)) State.reset))
      (fun t => (regRead t .crcAcc, t.resp)) = some (0xFFFFFFFF, .written) := by decide +kernel

/-- K14 and K15. -/
theorem test_bus_errors :
    after (step (waiting (.host (.read (.offset 0x002) .word)) State.reset)) State.resp = some .busError ∧
    after (step (waiting (.host (.read (.offset 0x030) .word)) State.reset)) State.resp = some .busError ∧
    after (step (waiting (.host (.read (.offset 0x0FC) .word)) State.reset)) State.resp = some .busError ∧
    after (step (waiting (.host (.read (.offset 0x1FE) .word)) State.reset)) State.resp = some .busError ∧
    after (step (waiting (.host (.read (.offset 0x004) .half)) State.reset)) State.resp = some .busError := by
  decide +kernel

/-- K16. -/
theorem test_cmd_reads_zero :
    after (step (waiting (.host (.read (.offset 0x000) .word)) State.reset)) State.resp = some (.data 0) := by
  decide +kernel


/-! ## Assembly (30_encoding.md R103 to R105), on lines of program P2 and P3 -/

theorem test_assemble_commands :
    assembleText 1 ["wr RX_TMO, 10  ; [0x00C] <- 0x0000000A", "", "tx.cmd 2", "rx.ackframe ; armed", "tx.byte 0x1F"] =
      some [.host (.write (.offset 0x00C) .word 0x0000000A), .host (.write (.offset 0x000) .word 0x00000210),
        .host (.write (.offset 0x000) .word 0x00000022), .host (.write (.offset 0x000) .word 0x00001F12)] := by
  decide +kernel

theorem test_assemble_scenario :
    assembleText 2 ["@accept 2", "wait STATUS, 0xC, 0x0", "@rx 01 0A", "@tick 1", "rd RX_BUF[1]", "rd 0x028"] =
      some [.txReady, .txReady, .host (.read (.offset 0x004) .word), .host (.read (.offset 0x004) .word),
        .rxArrive 0x01, .rxArrive 0x0A, .tick, .host (.read (.offset 0x104) .word),
        .host (.read (.offset 0x028) .word)] := by decide +kernel

theorem test_assemble_pseudo :
    parseLine 1 "tx.frame 4, 0x1F, 1" = some (.txFrame 4 [0x1F, 0x01]) ∧
      (Line.clrStatus).events = [.host (.write (.offset 0x004) .word 0x00073F00)] ∧
      parseLine 1 "tx.byte 256" = none ∧ parseLine 1 "rd RX_BUF[64]" = none := by decide +kernel

/-! ## Witnesses: for each statement with hypotheses, states and operands that meet them, clause by clause -/

theorem test_witness_ReadAnswersTheRegisterAtItsOffset :
    ∀ p ∈ [(0x000, Reg.cmd), (0x004, .status), (0x008, .irqEn), (0x00C, .rxTmo), (0x010, .crcAcc), (0x014, .crcCnt),
      (0x018, .txCnt), (0x01C, .txPos), (0x020, .txLen), (0x024, .txCrc), (0x028, .rxLen), (0x02C, .rxCnt)],
    ∃ s : State, (p.1, regRead s p.2) ∈ [(0x000, 0#32), (0x004, statusWord s), (0x008, s.irqEn.toWord),
      (0x00C, s.rxTmo), (0x010, s.crcAcc), (0x014, s.crcCnt), (0x018, BitVec.ofNat 32 s.txCnt),
      (0x01C, BitVec.ofNat 32 s.txPos), (0x020, s.txLen.setWidth 32), (0x024, s.txCrc), (0x028, s.rxLen.setWidth 32),
      (0x02C, BitVec.ofNat 32 s.rxCnt)] ∧ s.rstN = true ∧ s.pending = [.host (.read (.offset p.1) .word)] := by
  intro p hp
  refine ⟨waiting (.host (.read (.offset p.1) .word)) (sendingHelp 2), ?_, rfl, rfl⟩
  simp only [List.mem_cons, List.not_mem_nil, or_false] at hp
  rcases hp with rfl | rfl | rfl | rfl | rfl | rfl | rfl | rfl | rfl | rfl | rfl | rfl <;> simp [regRead]

theorem test_witness_RxBufReadShowsReceivedBytes :
    (0 ≤ 63 ∧ (inBody 2 5).rstN = true ∧
      (waiting (.host (.read (.offset (0x100 + 4 * 0)) .word)) (inBody 2 5)).pending =
        [.host (.read (.offset (0x100 + 4 * 0)) .word)]) ∧
    (4 * 0 + 1 < (inBody 2 5).rxCnt ∧ (inBody 2 5).rxBuf.read (4 * 0 + 1) = some 0x0A) ∧
    ((inBody 2 5).rxCnt ≤ 4 * 0 + 2) ∧
    (63 ≤ 63 ∧ 4 * 63 + 2 < (inBody 255 255).rxCnt ∧ (inBody 255 255).rxCnt ≤ 4 * 63 + 3) := by decide +kernel

theorem test_witness_BadAccessIsABusErrorWithoutEffect :
    ∀ p ∈ [(0x000, AccessSize.byte), (0x004, .half), (0x001, .word), (0x1FF, .word), (0x030, .word), (0x0FC, .word)],
      p.1 < 0x200 ∧ (p.2 ≠ .word ∨ p.1 % 4 ≠ 0 ∨ (0x030 ≤ p.1 ∧ p.1 < 0x100)) ∧
      (waiting (.host (.read (.offset p.1) p.2)) State.reset).rstN = true ∧
      (waiting (.host (.read (.offset p.1) p.2)) State.reset).pending = [.host (.read (.offset p.1) p.2)] ∧
      (waiting (.host (.write (.offset p.1) p.2 7)) State.reset).pending = [.host (.write (.offset p.1) p.2 7)] := by
  decide

theorem test_witness_WindowAddressesAreOffsetsFromTheBase :
    (Config.pBase ≤ Config.pBase ∧ Config.pBase ≤ Config.pBase + 0x1FF) ∧
    (Config.pBase ≤ Config.pBase + 0x1FF ∧ Config.pBase + 0x1FF ≤ Config.pBase + 0x1FF) ∧
    (Config.pBase + 0x200 < Config.pBase ∨ Config.pBase + 0x1FF < Config.pBase + 0x200) :=
  ⟨⟨Nat.le_refl _, Nat.le_add_right _ _⟩, ⟨Nat.le_add_right _ _, Nat.le_refl _⟩,
    .inr (Nat.add_lt_add_left (by decide) _)⟩

theorem test_witness_WriteToReadOnlyRegisterIsIgnored :
    ∀ off ∈ [0x010, 0x02C, 0x100, 0x1FC],
      off % 4 = 0 ∧ ((0x010 ≤ off ∧ off ≤ 0x02C) ∨ (0x100 ≤ off ∧ off ≤ 0x1FC)) ∧
      (waiting (.host (.write (.offset off) .word 5)) State.reset).rstN = true ∧
      (waiting (.host (.write (.offset off) .word 5)) State.reset).pending =
        [.host (.write (.offset off) .word 5)] := by decide

theorem test_witness_StatusWriteClearsTheNamedEvents :
    (∀ v ∈ [0x0#32, 0x100#32, 0x00073F00#32],
      (waiting (.host (.write (.offset 0x004) .word v)) everyEvent).rstN = true ∧
      (waiting (.host (.write (.offset 0x004) .word v)) everyEvent).pending =
        [.host (.write (.offset 0x004) .word v)]) ∧
    idle3.rxState = .idle ∧
    (completesReceive 0 (armed .frame 3) = true ∧ completesReceive 0xFF (armed .byte 3) = true ∧
      completesReceive 0x02 (armed .ackFrame 3) = true ∧ completesReceive 5 (inBody 0 1) = true ∧
      completesReceive 5 (inBody 254 255) = true) ∧
    ((sendingHelp 5).txState = .sending ∧ (sendingHelp 5).txPos + 1 = (sendingHelp 5).txSeq.length) ∧
    ((armed .byte 0).rxState ≠ .idle ∧ (armed .byte 0).txState = .idle ∧ (armed .byte 0).rxCtr = 0) := by
  refine ⟨?_, rfl, by decide +kernel, by decide, by decide⟩
  intro v _
  exact ⟨rfl, rfl⟩

theorem test_witness_IrqEnableWriteStoresTheEventPositions :
    (waiting (.host (.write (.offset 0x008) .word 0xFFFFFFFF)) State.reset).rstN = true ∧
    (waiting (.host (.write (.offset 0x008) .word 0xFFFFFFFF)) State.reset).pending =
      [.host (.write (.offset 0x008) .word 0xFFFFFFFF)] := by decide

theorem test_witness_DeadlineWriteLeavesTheLoadedCountdown :
    (waiting (.host (.write (.offset 0x00C) .word 7)) idle3).rstN = true ∧
    (waiting (.host (.write (.offset 0x00C) .word 7)) idle3).pending =
      [.host (.write (.offset 0x00C) .word 7)] ∧
    (waiting (.host (.write (.offset 0x00C) .word 7)) idle3).rxState = .idle ∧
    Instr.rxByte ∈ [Instr.rxFrame, .rxByte, .rxAckFrame] := by decide

theorem test_witness_IrqIsAnyEnabledEvent :
    ({ State.reset with ev := allEvents, irqEn := allEvents } : State).rstN = true := rfl

theorem test_witness_DecodingTheEncodingGivesTheInstruction :
    (encode (.txByte 0xFF)).bytes.length = 4 := rfl

theorem test_witness_DecodedBytesAreTheEncoding :
    decodeBytes [0x02, 0x31, 0x00, 0x00] = .ok (.crcByte 0x31) ∧ decodeBytes [0x09] = .ok .writeData := by decide

theorem test_witness_WordDecodesExactlyWhenWellFormed :
    (0x00010001#32).extractLsb' 16 16 ≠ 0 ∧
    ((0x00000004#32).extractLsb' 16 16 = 0 ∧
      (0x00000004#32).extractLsb' 0 8 ∉ [0x00#8, 0x01#8, 0x02#8, 0x03#8, 0x10#8, 0x11#8, 0x12#8, 0x13#8, 0x14#8,
        0x20#8, 0x21#8, 0x22#8, 0x5A#8]) ∧
    ((0x0000015A#32).extractLsb' 16 16 = 0 ∧
      (0x0000015A#32).extractLsb' 0 8 ∈ [0x00#8, 0x01#8, 0x03#8, 0x11#8, 0x13#8, 0x14#8, 0x20#8, 0x21#8, 0x22#8,
        0x5A#8] ∧ (0x0000015A#32).extractLsb' 8 8 ≠ 0) ∧
    ((0x0000FF12#32).extractLsb' 16 16 = 0 ∧ (0x0000FF12#32).extractLsb' 0 8 ∈ [0x02#8, 0x10#8, 0x12#8]) := by
  decide

theorem test_witness_StepRunsTheDecodedInstruction :
    State.reset.rstN = true ∧ decodeCmd 0x0000FF02 = .ok (.crcByte 0xFF) ∧ decodeWire 9 = .ok .writeData ∧
    (waiting (cmdWrite 0x0000FF02) State.reset).pending = [.host (.write (.offset 0x000) .word 0x0000FF02)] ∧
    (waiting (.host (.wire 9)) State.reset).pending = [.host (.wire 9)] := by decide

theorem test_witness_UndecodableWordRaisesErrOpcOnly :
    State.reset.rstN = true ∧ decodeCmd 0x0000FF00 = .error .nonzeroArg ∧
    (waiting (cmdWrite 0x0000FF00) State.reset).pending =
      [.host (.write (.offset 0x000) .word 0x0000FF00)] := by decide

theorem test_witness_NopHasNoEffect :
    (0x0000FF00#32).extractLsb' 0 8 = 0 ∧ 0x0000FF00#32 ≠ 0 := by decide

theorem test_witness_CrcByteFoldsOneByte :
    ({ State.reset with crcCnt := 0xFFFFFFFF } : State).crcCnt = 0xFFFFFFFF#32 := rfl

theorem test_witness_CrcPadFoldsZerosToAMultipleOfFour :
    ({ State.reset with crcCnt := 0xFFFFFFFC } : State).crcCnt.toNat % 4 = 0 := by decide

theorem test_witness_CrcUnitComputesCrc32 :
    [Instr.crcByte 0x31, .txStartRaw, .rxByte, .crcByte 0x32].filter isCrcUnit =
      [0x31#8, 0x32#8].map Instr.crcByte ∧
    Instr.sreset ∉ [Instr.crcByte 0x31, .txStartRaw, .rxByte, .crcByte 0x32] := by decide

theorem test_witness_CrcUnitAndSerializerAreIndependent :
    isCrcUnit .crcPad4 = true ∧ isTxUnit .txSend = true ∧
    after (exec .crcPad4 (sendingHelp 5)) (fun t => t.crcCnt) = some 0 ∧
    after (txAccept (sendingHelp 5)) (fun u => u.txPos) = some 6 ∧
    ({ openRaw [0x01] with crcAcc := 1, crcCnt := 2, txCnt := 0 } : State).crcAcc =
      ({ openRaw [0x01] with crcAcc := 1, crcCnt := 2 } : State).crcAcc := by decide

theorem test_witness_ImageCrcIsTheCrcOfTheSwappedImage :
    (8 % 4 = 0 ∧ [0x01#8, 0x02#8, 0x03#8, 0x04#8, 0x05#8].length ≤ 8 ∧ 1 < 8 / 4 ∧ 3 < 4) ∧
    (4 % 4 = 0 ∧ [0x01#8, 0x02#8, 0x03#8, 0x04#8].length ≤ 4) ∧
    (4 % 4 = 0 ∧ 4 < [0x01#8, 0x02#8, 0x03#8, 0x04#8, 0x05#8].length) := by decide

theorem test_witness_HostProcedureComputesTheImageCrc :
    State.reset.rstN = true ∧ 8 % 4 = 0 ∧ [0x01#8, 0x02#8, 0x03#8, 0x04#8, 0x05#8].length ≤ 8 := by decide

theorem test_witness_StartCommandOpensACommandFrame :
    (sendingHelp 0).txState = .sending ∧
    (State.reset.txState ≠ .sending ∧ ((0#8).toNat < 1 ∨ 9 < (0#8).toNat)) ∧
    (State.reset.txState ≠ .sending ∧ ((10#8).toNat < 1 ∨ 9 < (10#8).toNat)) ∧
    ((openRaw [0x01]).txState ≠ .sending ∧ 1 ≤ (1#8).toNat ∧ (9#8).toNat ≤ 9) := by decide

theorem test_witness_StartRawOpensARawFrame :
    (sendingHelp 5).txState = .sending ∧ (openCmd [0x02]).txState ≠ .sending := by decide

theorem test_witness_BodyByteIsAppendedOrOverflows :
    State.reset.txState ≠ .opened ∧
    ((openCount Config.pTxcap).txState = .opened ∧ (openCount Config.pTxcap).txCnt = Config.pTxcap) ∧
    ((openCount (Config.pTxcap - 1)).txState = .opened ∧ (openCount (Config.pTxcap - 1)).txCnt ≠ Config.pTxcap) := by
  refine ⟨by decide, ⟨rfl, rfl⟩, rfl, ?_⟩
  show Config.pTxcap - 1 ≠ Config.pTxcap
  unfold Config.pTxcap
  omega

theorem test_witness_SendFixesTheFrameOfTheBody :
    (sendingHelp 0).txState ≠ .opened ∧ (openRaw [0x01]).txState = .opened ∧
    ((openCount 0).txState = .opened ∧ (openCount 0).txCnt = 0) ∧
    ((openCount 251).txState = .opened ∧ (openCount 251).txCnt = 251) ∧
    ((openCount 252).txState = .opened ∧ (openCount 252).txCnt = 252) ∧
    ((openCount 256).txState = .opened ∧ (openCount 256).txCnt = 256) := by decide

theorem test_witness_AbortDiscardsOnlyAnOpenFrame :
    (sendingHelp 0).txState = .sending ∧ (openRaw [0x01]).txState = .opened ∧ State.reset.txState = .idle := by
  decide

theorem test_witness_NoCommandCutsAFrameShort :
    (sendingHelp 3).txState = .sending ∧ Instr.txAbort ≠ .sreset ∧ isTxUnit .txAbort = true := by decide

theorem test_witness_SinkAcceptsTheFrameByteByByte :
    (∀ s ∈ [State.reset, sendingHelp 4, sendingHelp 5],
      (waiting .txReady s).rstN = true ∧ (waiting .txReady s).pending = [.txReady]) ∧
    State.reset.txState ≠ .sending ∧
    ((sendingHelp 4).txState = .sending ∧ (sendingHelp 4).txSeq[(sendingHelp 4).txPos]? = some 0x69 ∧
      (sendingHelp 4).txPos + 1 < (sendingHelp 4).txSeq.length) ∧
    ((sendingHelp 5).txState = .sending ∧ (sendingHelp 5).txSeq[(sendingHelp 5).txPos]? = some 0x1B ∧
      (sendingHelp 5).txPos + 1 = (sendingHelp 5).txSeq.length) := by
  refine ⟨?_, by decide, by decide, by decide⟩
  intro s hs
  simp only [List.mem_cons, List.not_mem_nil, or_false] at hs
  rcases hs with rfl | rfl | rfl <;> exact ⟨rfl, rfl⟩

theorem test_witness_EnoughAcceptancesCompleteTheFrame :
    (sendingHelp 5).rstN = true ∧ (sendingHelp 5).txState = .sending ∧
    (sendingHelp 5).txPos < (sendingHelp 5).txSeq.length := by decide

theorem test_witness_SerializerMeetsTheSourcesEncode :
    State.reset.rstN = true ∧ State.reset.txState ≠ .sending ∧
    (1 ≤ (1#8).toNat ∧ (9#8).toNat ≤ 9 ∧ (List.replicate (Config.pTxcap - 1) 0x00#8).length + 1 ≤ Config.pTxcap) ∧
    (List.replicate Config.pTxcap 0x00#8).length ≤ Config.pTxcap := by
  refine ⟨rfl, by decide, ⟨by decide, by decide, ?_⟩, by simp⟩
  rw [List.length_replicate]
  unfold Config.pTxcap
  omega

theorem test_witness_WireCommandOpensAFrameWithItsByte :
    (Instr.getHelp, 1#8) ∈ wireTable ∧ (Instr.writeData, 9#8) ∈ wireTable ∧
    State.reset.txState ≠ .sending ∧ (sendingHelp 0).txState = .sending := by decide

theorem test_witness_WireCommandFramesAreAsWrittenOut : State.reset.txState ≠ .sending := by decide

theorem test_witness_ChunksAreThePayloadInOrder : (List.replicate 300 0x00#8).length = 300 :=
  List.length_replicate

theorem test_witness_ExchangeIsArmedBeforeItIsSent :
    State.reset.rstN = true ∧ State.reset.txState ≠ .sending ∧ State.reset.rxState = .idle ∧
    exchangeOf 3 = some .ackThenBody ∧ exchangeOf 4 = some .ack ∧ exchangeOf 5 = some .ackThenBulk ∧
    [0x1F#8, 0x01#8].length + 1 ≤ Config.pTxcap := by
  refine ⟨rfl, by decide, rfl, rfl, rfl, rfl, ?_⟩
  unfold Config.pTxcap
  simp

theorem test_witness_ArmStartsAReceiveOnlyInIdle :
    (Instr.rxAckFrame, RxMode.ackFrame, 0x00000022#32) ∈ [(Instr.rxFrame, RxMode.frame, 0x00000020#32),
      (.rxByte, .byte, 0x00000021#32), (.rxAckFrame, .ackFrame, 0x00000022#32)] ∧
    (armed .frame 3).rxState ≠ .idle ∧ idle3.rxState = .idle := by decide

theorem test_witness_IdleByteIsDroppedAndLengthByteIsTaken :
    ((waiting (.rxArrive 0) idle3).rstN = true ∧ (waiting (.rxArrive 0) idle3).pending = [.rxArrive 0] ∧
      (waiting (.rxArrive 0) idle3).rxState = .idle) ∧
    ((waiting (.rxArrive 0) (armed .frame 3)).rstN = true ∧
      (waiting (.rxArrive 0) (armed .frame 3)).pending = [.rxArrive 0] ∧
      (waiting (.rxArrive 0) (armed .frame 3)).rxState = .waitFirst ∧
      (waiting (.rxArrive 0) (armed .frame 3)).rxMode = .frame) ∧
    ((waiting (.rxArrive 255) (armed .frame 3)).pending = [.rxArrive 255] ∧ 255#8 ≠ 0) := by decide

theorem test_witness_AcknowledgmentIsTheByteOne :
    ((waiting (.rxArrive 1) (armed .ackFrame 3)).rstN = true ∧
      (waiting (.rxArrive 1) (armed .ackFrame 3)).pending = [.rxArrive 1] ∧
      (waiting (.rxArrive 1) (armed .ackFrame 3)).rxState = .waitFirst ∧
      (waiting (.rxArrive 1) (armed .ackFrame 3)).rxMode = .ackFrame) ∧
    ((waiting (.rxArrive 0) (armed .byte 3)).pending = [.rxArrive 0] ∧
      (waiting (.rxArrive 0) (armed .byte 3)).rxState = .waitFirst ∧
      (waiting (.rxArrive 0) (armed .byte 3)).rxMode = .byte) ∧
    ((waiting (.rxArrive 2) (armed .ackFrame 3)).rxMode = .ackFrame ∧ 2#8 ≠ 0x01) := by decide

theorem test_witness_BodyByteIsStoredAndTheLastCompletes :
    ((waiting (.rxArrive 5) (inBody 0 1)).rstN = true ∧
      (waiting (.rxArrive 5) (inBody 0 1)).pending = [.rxArrive 5] ∧
      (waiting (.rxArrive 5) (inBody 0 1)).rxState = .waitBody ∧
      (inBody 0 1).rxCnt + 1 = (inBody 0 1).rxLen.toNat) ∧
    ((waiting (.rxArrive 5) (inBody 0 255)).pending = [.rxArrive 5] ∧
      (waiting (.rxArrive 5) (inBody 0 255)).rxState = .waitBody ∧
      (inBody 0 255).rxCnt + 1 ≠ (inBody 0 255).rxLen.toNat) := by decide

theorem test_witness_TickCountsOnlyWhileWaitingWithTxIdle :
    ((waiting .tick idle3).rstN = true ∧ (waiting .tick idle3).pending = [.tick] ∧
      (waiting .tick idle3).rxState = .idle) ∧
    ((waiting .tick (openRaw [])).txState ≠ .idle) ∧
    ((waiting .tick (armed .byte 1)).rxState ≠ .idle ∧ (waiting .tick (armed .byte 1)).txState = .idle ∧
      (waiting .tick (armed .byte 1)).rxCtr ≠ 0) ∧
    ((waiting .tick (armed .byte 0)).rxState ≠ .idle ∧ (waiting .tick (armed .byte 0)).rxCtr = 0) := by decide

theorem test_witness_WaitExpiresOnTheTickAfterItsDeadline :
    ((armed .byte 0).rstN = true ∧ (armed .byte 0).rxState ≠ .idle ∧ (armed .byte 0).txState = .idle ∧
      0 ≤ (armed .byte 0).rxCtr.toNat) ∧
    ((armed .frame 0xFFFFFFFF).rxState ≠ .idle ∧
      0xFFFFFFFF ≤ (armed .frame 0xFFFFFFFF).rxCtr.toNat) := by decide

theorem test_witness_LateLengthOrBodyTimesOut :
    idle3.rstN = true ∧ idle3.rxState = .idle ∧ idle3.txState = .idle ∧ 3 ≤ idle3.rxTmo.toNat ∧
    (∀ e ∈ [Event.tick, .rxArrive 0xAB, .tick, .tick, .tick], e.isRxOrTick = true) ∧
    (arrivals [Event.tick, .rxArrive 0xAB, .tick, .tick, .tick]).length < (2#8).toNat ∧
    tickCount [Event.tick, .rxArrive 0xAB, .tick, .tick, .tick] = idle3.rxTmo.toNat + 1 := by decide

theorem test_witness_CommandRaisesAtMostOneError :
    after (writeCmd 0x00000A10 State.reset) (fun t => (State.reset.ev.get .errArg, t.ev.get .errArg)) =
      some (false, true) := by decide +kernel

theorem test_witness_EventBitsAreSticky :
    (∀ b ∈ [EventBit.txDone, .rxDone, .rxTimeout, .rxDrop, .txOvf, .lwrap, .errOpc, .errState, .errArg],
      (everyEvent.ev.get b = true ∧ everyEvent.rstN = true ∧ everyEvent.txState ≠ .sending ∧ everyEvent.rxState = .idle) ∧
      ∀ e ∈ [Event.rstN false, cmdWrite 0x0000005A, .host (.write (.offset 0x004) .word 0x00073F00)],
        after (step (waiting e everyEvent)) (fun t => t.ev.get b) = some false) ∧
    (∀ e ∈ [cmdWrite 0x00000011, cmdWrite 0x00000110, cmdWrite 0x00000910, .host (.wire 1), .host (.wire 9)],
      after (step (waiting e everyEvent)) (fun t => t.ev.get .txDone) = some false) ∧
    ∀ b ∈ [EventBit.rxDone, .rxTimeout], ∀ e ∈ [cmdWrite 0x00000020, cmdWrite 0x00000021, cmdWrite 0x00000022],
      after (step (waiting e everyEvent)) (fun t => t.ev.get b) = some false := by
  decide +kernel

theorem test_witness_SameCycleStepsFollowTheHardwareOrder :
    (∀ p ∈ [(0x00#8, armed .frame 0), (0xFF, armed .byte 0), (0x01, armed .byte 0), (0x00, armed .ackFrame 0),
        (0x02, armed .ackFrame 0), (5, expiring (inBody 0 1)), (5, expiring (inBody 254 255))],
      p.2.rstN = true ∧ completesReceive p.1 p.2 = true ∧ p.2.rxCtr = 0 ∧ p.2.ev.rxTimeout = false) ∧
    ((1#8 ≠ 0 ∧ 255#8 ≠ 0) ∧ (armed .frame 0).rxTmo = 0 ∧
      ∀ s ∈ [armed .frame 0, armed .frame 1, armed .frame 0xFFFFFFFF],
        s.rstN = true ∧ s.rxState = .waitFirst ∧ s.rxMode = .frame ∧ s.txState = .idle) ∧
    ((lastByteArmed 0).rxCtr = 0 ∧ (lastByteArmed 1).rxCtr ≠ 0 ∧
      ∀ s ∈ [lastByteArmed 0, lastByteArmed 1],
        s.rstN = true ∧ s.txState = .sending ∧ s.txPos + 1 = s.txSeq.length ∧ s.rxState ≠ .idle) ∧
    idle3.rstN = true ∧ idle3.rxState = .idle := by
  decide +kernel

theorem test_witness_ResetInputHoldsTheElementsAtReset :
    ({ State.reset with rstN := false } : State).rstN = false ∧
    ((∀ level, Event.tick ≠ .rstN level) ∧ (∀ a, Event.tick ≠ .host a)) ∧
    (0x1FC < 0x200 ∧
      HostAccess.wire 9 ∈ [HostAccess.read (.offset 0x1FC) .word, .write (.offset 0x1FC) .word 0, .wire 9]) := by
  refine ⟨rfl, ⟨?_, ?_⟩, by decide⟩ <;> intro _ h <;> cases h

theorem test_witness_NothingHappensWithoutAnAgent : State.reset.rstN = true ∧ State.reset.pending = [] := ⟨rfl, rfl⟩

/-- A frame being sent, from whose state a step completes: the premise of the statements over the invariant. -/
theorem test_sendingHelp_meets_the_invariant (p : List Event) : Inv { sendingHelp 2 with pending := p } where
  tx :=
    { bufWf := rfl
      cntBound := by show 1 ≤ Config.pTxcap; unfold Config.pTxcap; omega
      seqBound := by show 6 ≤ Config.pTxcap + 5; unfold Config.pTxcap; omega
      posBound := by show 2 ≤ 6; decide
      bodyWritten := rfl
      cmdFirst := fun _ _ =>
        (by decide +kernel : 1 ≤ (sendingHelp 2).txCnt ∧ 1 ≤ (txBufByte (sendingHelp 2) 0).toNat ∧
          (txBufByte (sendingHelp 2) 0).toNat ≤ 9)
      openPos := by intro h; cases h
      sendingFrame := fun _ =>
        (by decide +kernel : (sendingHelp 2).txSeq = frameOf (txBody (sendingHelp 2)) ∧
          (sendingHelp 2).txPos < (sendingHelp 2).txSeq.length ∧
          (sendingHelp 2).txLen = lengthByte (sendingHelp 2).txCnt ∧
          (sendingHelp 2).txCrc = paddedCrc (txBody (sendingHelp 2)))
      notDone := fun _ => rfl }
  rx :=
    { bufWf := rfl
      bodyWritten := rfl
      cntBound := Nat.le_refl 0
      waitBody := by intro h; cases h
      waitFirst := by intro h; cases h
      noAckYet := fun h => absurd rfl h
      noOutcome := fun h => absurd rfl h
      oneOutcome := by rintro ⟨h, _⟩; cases h }
  underReset := by intro h; cases h

theorem test_witness_StepKeepsTheInvariant :
    Inv { sendingHelp 2 with pending := [.txReady] } ∧
    ∃ t, step { sendingHelp 2 with pending := [.txReady] } = .next t :=
  ⟨test_sendingHelp_meets_the_invariant _, _, rfl⟩

theorem test_witness_StepStopsOnlyOutsideTheWindow :
    Inv { sendingHelp 2 with pending := [.host (.read (.offset 0x200) .word)] } ∧
    step { sendingHelp 2 with pending := [.host (.read (.offset 0x200) .word)] } =
      .fault (.outsideWindow (.offset 0x200)) :=
  ⟨test_sendingHelp_meets_the_invariant _, rfl⟩

/-- A unit at rest with a deadline of three ticks. -/
theorem test_idle3_meets_the_invariant : Inv idle3 where
  tx :=
    { bufWf := rfl
      cntBound := Nat.zero_le _
      seqBound := Nat.zero_le _
      posBound := Nat.le_refl 0
      bodyWritten := rfl
      cmdFirst := fun h => absurd rfl h
      openPos := by intro h; cases h
      sendingFrame := by intro h; cases h
      notDone := fun h => absurd rfl h }
  rx :=
    { bufWf := rfl
      bodyWritten := rfl
      cntBound := Nat.le_refl 0
      waitBody := by intro h; cases h
      waitFirst := by intro h; cases h
      noAckYet := fun h => absurd rfl h
      noOutcome := fun h => absurd rfl h
      oneOutcome := by rintro ⟨h, _⟩; cases h }
  underReset := by intro h; cases h

theorem test_witness_EveryFinishedReceiveHasAListedOutcome :
    Inv { sendingHelp 2 with pending := [] } ∧ (sendingHelp 2).rstN = true ∧ (sendingHelp 2).rxState = .idle ∧
    (∀ p ∈ [(Instr.rxFrame, RxMode.frame), (.rxByte, .byte), (.rxAckFrame, .ackFrame)],
      p ∈ [(Instr.rxFrame, RxMode.frame), (.rxByte, .byte), (.rxAckFrame, .ackFrame)]) ∧
    Inv idle3 ∧ idle3.rstN = true ∧ idle3.rxState = .idle ∧
    ∀ e ∈ [cmdWrite 0x00000013, cmdWrite 0x00000302, cmdWrite 0, cmdWrite 0x000000FF, .host (.wire 9), .txReady,
        .rxArrive 0x01, .tick, .host (.read (.offset 0x1FC) .word), .host (.read (.offset 0x002) .half),
        .host (.write (.offset 0x004) .word 0x00073900), .host (.write (.offset 0x00C) .word 9), .rstN true],
      keepsReceive e = true :=
  ⟨test_sendingHelp_meets_the_invariant _, rfl, rfl, fun _ h => h, test_idle3_meets_the_invariant, rfl, rfl,
    by decide +kernel⟩

/-- The order R304 prescribes: the receive is armed while the frame is OPEN and the frame is sent after it; the
acknowledgment then ends the receive. -/
theorem test_receive_ends_after_a_send :
    after (runSteps [issue .rxByte, issue .txSend, .tick, .txReady, .rxArrive 0x01] (openRaw []))
      (fun t => (rxOutcome .byte t, t.txState, t.txPos)) = some (.ack, .sending, 1) := by decide +kernel

/-- With the TX unit SENDING no tick counts, so the deadline may be any; with it IDLE, three ticks of three count. -/
theorem test_witness_DeserializerMeetsTheSourcesDecode :
    (Inv { sendingHelp 2 with pending := [] } ∧ (sendingHelp 2).rstN = true ∧ (sendingHelp 2).rxState = .idle ∧
      (∀ e ∈ [Event.tick, .txReady] ++ [.rxArrive 0xAB, .tick, .rxArrive 0xCD, .tick],
        e = .txReady ∨ e.isRxOrTick = true) ∧
      arrivals [.tick, .txReady] = [] ∧ arrivals [.rxArrive 0xAB, .tick, .rxArrive 0xCD, .tick] = [0xAB, 0xCD] ∧
      [0xAB#8, 0xCD#8].length = (2#8).toNat ∧
      countedTicks [issue .rxFrame, .tick, .txReady] (sendingHelp 2) = 0 ∧
      after (runSteps [issue .rxFrame, .tick, .txReady] (sendingHelp 2))
        (countedTicks [.rxArrive 2, .rxArrive 0xAB, .tick, .rxArrive 0xCD, .tick]) = some 0) ∧
    (Inv idle3 ∧ idle3.rstN = true ∧ idle3.rxState = .idle ∧ arrivals [.tick, .tick, .tick] = [] ∧
      ([] : List Byte).length = (0#8).toNat ∧
      countedTicks [issue .rxFrame, .tick, .tick, .tick] idle3 = idle3.rxTmo.toNat ∧
      after (runSteps [issue .rxFrame, .tick, .tick, .tick] idle3)
        (countedTicks [.rxArrive 0, .tick, .tick, .tick]) = some idle3.rxTmo.toNat) :=
  ⟨⟨test_sendingHelp_meets_the_invariant _, rfl, rfl, by decide +kernel⟩, test_idle3_meets_the_invariant, rfl, rfl,
    by decide +kernel⟩

theorem test_witness_EveryCommandFrameIsWellFormed :
    Inv { sendingHelp 2 with pending := [] } ∧
    runSteps [] { sendingHelp 2 with pending := [] } = .next { sendingHelp 2 with pending := [] } ∧
    (sendingHelp 2).txState = .sending ∧ (sendingHelp 2).txKind = .cmd :=
  ⟨test_sendingHelp_meets_the_invariant _, rfl, rfl, rfl⟩

end Sys2Proof.Tests
end

section
/-! PROOF. Reset (10_state.md R43): the laws of the empty event set, what the reset state shows through each view, and
the statement about the reset values. -/

namespace Sys2Proof.Machine

/-- With no event set, no enable raises the interrupt (R272). -/
@[simp] theorem Events.none_anyEnabled (en : Events) : Events.none.anyEnabled en = false := by
  simp [Events.anyEnabled, Events.none]

@[simp] theorem Events.none_toWord : Events.none.toWord = 0 := by decide

theorem irq_of_no_events {s : State} (h : s.ev = Events.none) : irq s = false := by
  simp [irq, h]

/-- `STATUS` reads 0 when both units are IDLE, the receive mode is FRAME, no acknowledgment is held and no event is set
(R29). -/
theorem statusWord_of_quiet {s : State} (htx : s.txState = .idle) (hrx : s.rxState = .idle) (hmode : s.rxMode = .frame)
    (hack : s.ackOk = false) (hev : s.ev = Events.none) : statusWord s = 0 := by
  rw [statusWord, htx, hrx, hmode, hack, hev, Events.none_toWord]
  decide

/-- Settles O1: each element by the definition of the reset state, then each register as a view of its element; the
interrupt and `STATUS` by the laws of the empty event set. -/
theorem resetHoldsTheResetValues : Obligations.ResetHoldsTheResetValues := by
  have hirq : irq State.reset = false := irq_of_no_events rfl
  have hstatus : regRead State.reset .status = 0 := statusWord_of_quiet rfl rfl rfl rfl rfl
  have henables : regRead State.reset .irqEn = 0 := Events.none_toWord
  constructor
  · exact ⟨rfl, rfl, rfl, rfl, rfl, rfl, rfl, rfl, rfl, rfl, rfl, rfl, rfl, rfl, rfl, rfl, Events.none_get,
      Events.none_get, hirq⟩
  · exact ⟨hstatus, henables, rfl, rfl, rfl, rfl, rfl, rfl, rfl, rfl, rfl⟩

end Sys2Proof.Machine
end

section
/-! PROOF. The CRC functions (40_crc.md R130 to R132, R137 to R139): `crc_step` is linear over GF(2), the four bytes of
a suffix are its word, and the image buffer is the padded image with the bytes of each word swapped. -/

namespace Sys2Proof.Machine

theorem xor_xor_xor_exchange (a b c d : Word) : a ^^^ b ^^^ (c ^^^ d) = a ^^^ c ^^^ (b ^^^ d) := by ac_rfl

/-- A round is linear: the top bit of a sum is the sum of the top bits, and two polynomials cancel (R130, R132). -/
theorem crcRound_xor (a b : Word) : crcRound (a ^^^ b) = crcRound a ^^^ crcRound b := by
  unfold crcRound
  rw [BitVec.getLsbD_xor, BitVec.shiftLeft_xor_distrib]
  cases a.getLsbD 31 <;> cases b.getLsbD 31
  · rfl
  · exact BitVec.xor_assoc ..
  · have h := xor_xor_xor_exchange (a <<< 1) (b <<< 1) crcPoly 0#32
    rwa [BitVec.xor_zero, BitVec.xor_zero] at h
  · have h := xor_xor_xor_exchange (a <<< 1) (b <<< 1) crcPoly crcPoly
    rwa [BitVec.xor_self, BitVec.xor_zero] at h

theorem crcRounds_xor (k : Nat) (a b : Word) : crcRounds k (a ^^^ b) = crcRounds k a ^^^ crcRounds k b := by
  induction k generalizing a b with
  | zero => rfl
  | succ k ih => rw [crcRounds, crcRound_xor, ih]; rfl

/-- `crc_step` is linear in the pair of accumulator and byte (R132). -/
theorem crcStep_xor (a a' : Word) (b b' : Byte) :
    crcStep (a ^^^ a') (b ^^^ b') = crcStep a b ^^^ crcStep a' b' := by
  unfold crcStep
  rw [BitVec.setWidth_xor, BitVec.shiftLeft_xor_distrib, xor_xor_xor_exchange, crcRounds_xor]

theorem crcRounds_eq_iterate (k : Nat) (a : Word) : crcRounds k a = crcRound^[k] a := by
  induction k generalizing a with
  | zero => rfl
  | succ k ih => exact ih (crcRound a)

theorem crcFold_eq_foldl (a : Word) (bs : List Byte) : crcFold a bs = bs.foldl crcStep a := by
  induction bs generalizing a with
  | nil => rfl
  | cons b bs ih => exact ih (crcStep a b)

/-- Settles O21: the rounds are an iteration of R130's round, the fold is that of R131, linearity is `crcStep_xor`, and
the stated values are computed. -/
theorem crcFunctionIsTheSourcesAndLinear : Obligations.CrcFunctionIsTheSourcesAndLinear := by
  refine ⟨fun acc b => ?rounds, fun s => ?fold, crcStep_xor, ?values⟩
  case rounds => exact crcRounds_eq_iterate 8 (acc ^^^ (b.setWidth 32 <<< 24))
  case fold => exact crcFold_eq_foldl crcStart s
  case values => decide +kernel

/-- The four lanes of a word, put together again, are the word (R67, R137). -/
theorem wordOfBytes_byteOf (w : Word) : wordOfBytes (byteOf w 0) (byteOf w 1) (byteOf w 2) (byteOf w 3) = w := by
  unfold wordOfBytes byteOf
  apply BitVec.eq_of_getLsbD_eq
  intro i hi
  simp only [BitVec.getLsbD_append, BitVec.getLsbD_extractLsb']
  interval_cases i <;> simp

/-- Settles O26: what `append_crc` adds are the four lanes of the padded CRC. -/
theorem appendCrcAddsTheCrcOfThePaddedData : Obligations.AppendCrcAddsTheCrcOfThePaddedData := fun d =>
  ⟨List.length_append, List.take_left, _, _, _, _, List.drop_left, wordOfBytes_byteOf (paddedCrc d)⟩

/-- A sequence of whole words that does not start with a word is empty: a partial word does not occur (R139). -/
theorem eq_nil_of_no_word {l : List Byte} (h : l.length % 4 = 0)
    (hno : ∀ b0 b1 b2 b3 rest, l = b0 :: b1 :: b2 :: b3 :: rest → False) : l = [] :=
  match l with
  | [] => rfl
  | [_] | [_, _] | [_, _, _] => absurd h (by simp)
  | b0 :: b1 :: b2 :: b3 :: rest => (hno b0 b1 b2 b3 rest rfl).elim

theorem length_swapWords {l : List Byte} (h : l.length % 4 = 0) : (swapWords l).length = l.length := by
  fun_induction swapWords l with
  | case1 b0 b1 b2 b3 rest ih =>
    simp only [List.length_cons] at h ⊢
    rw [ih (by omega)]
  | case2 l hno => rw [eq_nil_of_no_word h hno]

/-- Byte `j` of a word of the swapped sequence is byte `3 - j` of that word (R139). -/
theorem getElem?_swapWords {l : List Byte} (h : l.length % 4 = 0) (k : Nat) {j : Nat} (hj : j < 4) :
    (swapWords l)[4 * k + j]? = l[4 * k + (3 - j)]? := by
  fun_induction swapWords l generalizing k with
  | case1 b0 b1 b2 b3 rest ih =>
    simp only [List.length_cons] at h
    cases k with
    | zero => interval_cases j <;> rfl
    | succ k =>
      rw [Nat.mul_succ, Nat.add_right_comm _ 4 j, Nat.add_right_comm _ 4 (3 - j)]
      exact ih (by omega) k
  | case2 l hno => rw [eq_nil_of_no_word h hno]; rfl

/-- An image that fits fills the area exactly (R139). -/
theorem length_paddedImage {size : Nat} {m : List Byte} (h : m.length ≤ size) :
    (m ++ ffs (size - m.length)).length = size := by
  rw [List.length_append, ffs, List.length_replicate, Nat.add_sub_cancel' h]

theorem length_imageBuffer {size : Nat} {m : List Byte} (h4 : size % 4 = 0) (h : m.length ≤ size) :
    (imageBuffer size m).length = size := by
  have hlen := length_paddedImage h
  rw [imageBuffer, length_swapWords (by rw [hlen, h4]), hlen]

theorem imageCrcFor_of_le {size : Nat} {m : List Byte} (h : m.length ≤ size) :
    imageCrcFor size m = .ok (crc32 (imageBuffer size m)) := if_pos h

/-- Settles O28: the padded image is whole words, so the swap keeps its size and moves each byte inside its word. -/
theorem imageCrcIsTheCrcOfTheSwappedImage : Obligations.ImageCrcIsTheCrcOfTheSwappedImage := by
  refine ⟨fun m => rfl, fun size m h4 => ⟨fun h => ?fits, fun h => ?tooLong⟩⟩
  case fits =>
    have hwords : (m ++ ffs (size - m.length)).length % 4 = 0 := by rw [length_paddedImage h, h4]
    exact ⟨length_imageBuffer h4 h, fun k _ _ hj => getElem?_swapWords hwords k hj, imageCrcFor_of_le h⟩
  case tooLong => exact if_neg (by omega)

end Sys2Proof.Machine
end

section
/-! PROOF. The CRC unit (40_crc.md R133 to R136, R140): its commands read and write the accumulator and the count alone,
and a run of them folds its bytes. -/

namespace Sys2Proof.Machine

/-- The state with other contents of the CRC unit (R23, R24). -/
def State.withCrc (acc cnt : Word) (s : State) : State := { s with crcAcc := acc, crcCnt := cnt }

@[simp] theorem withCrc_crcAcc (s : State) (a c : Word) : (s.withCrc a c).crcAcc = a := rfl
@[simp] theorem withCrc_crcCnt (s : State) (a c : Word) : (s.withCrc a c).crcCnt = c := rfl
@[simp] theorem withCrc_txState (s : State) (a c : Word) : (s.withCrc a c).txState = s.txState := rfl
@[simp] theorem withCrc_txSeq (s : State) (a c : Word) : (s.withCrc a c).txSeq = s.txSeq := rfl
@[simp] theorem withCrc_txPos (s : State) (a c : Word) : (s.withCrc a c).txPos = s.txPos := rfl
@[simp] theorem withCrc_self (s : State) : s.withCrc s.crcAcc s.crcCnt = s := rfl
@[simp] theorem withCrc_withCrc (s : State) (a c a' c' : Word) : (s.withCrc a c).withCrc a' c' = s.withCrc a' c' := rfl

/-- `CRC_PAD4` looks at the two low bits of the count alone (R135). -/
theorem padCount_low_bits (c : Word) : padCount (c.extractLsb' 0 2).toNat = padCount c.toNat := by
  rw [BitVec.extractLsb'_toNat, Nat.shiftRight_zero, padCount, padCount, Nat.mod_mod]

/-! What each command of the CRC unit does, as a change of the CRC unit's contents (R133 to R135). -/

theorem execState_crcInit (s : State) : execState .crcInit s = s.withCrc crcStart 0#32 := rfl

theorem execState_crcByte (b : Byte) (s : State) :
    execState (.crcByte b) s = s.withCrc (crcStep s.crcAcc b) (s.crcCnt + 1#32) := rfl

theorem execState_crcPad4 (s : State) :
    execState .crcPad4 s =
      s.withCrc (crcFold s.crcAcc (zeros (padCount s.crcCnt.toNat)))
        (s.crcCnt + BitVec.ofNat 32 (padCount s.crcCnt.toNat)) := by
  rw [execState, padCount_low_bits, foldZeros_eq]
  rfl

theorem padCount_of_mod {n : Nat} (h : n % 4 = 0) : padCount n = 0 := by rw [padCount, h]

/-- Padding brings the count to a multiple of 4, where 2^32 is one too (R135). -/
theorem add_padCount_mod (c : Word) : (c + BitVec.ofNat 32 (padCount c.toNat)).toNat % 4 = 0 := by
  rw [BitVec.toNat_add, BitVec.toNat_ofNat, padCount]
  omega

theorem execState_crcPad4_of_mod {s : State} (h : s.crcCnt.toNat % 4 = 0) : execState .crcPad4 s = s := by
  rw [execState_crcPad4, padCount_of_mod h]
  exact congrArg (s.withCrc s.crcAcc ·) (BitVec.add_zero s.crcCnt)

/-- Settles O22: the completion of `CRC_INIT`, once and twice. -/
theorem crcInitStartsAComputation : Obligations.CrcInitStartsAComputation := by
  refine ⟨by decide, fun s => ⟨exec_eq .crcInit s, ?_⟩⟩
  rw [execAll_cons, execAll_cons, execAll_nil, exec_eq]
  simp only [execState_crcInit, withCrc_withCrc]

/-- Settles O24: the completion of `CRC_PAD4`; once it has padded, the count is a multiple of 4, so a second one folds
nothing. -/
theorem crcPadFoldsZerosToAMultipleOfFour : Obligations.CrcPadFoldsZerosToAMultipleOfFour := by
  refine ⟨by decide, fun s => ⟨?completion, fun h => ?multiple, ?twice⟩, ?worked⟩
  case completion => rw [exec_eq, execState_crcPad4]; rfl
  case multiple => rw [exec_eq, execState_crcPad4_of_mod h]
  case twice =>
    have hmod : (execState .crcPad4 s).crcCnt.toNat % 4 = 0 := by
      rw [execState_crcPad4]; exact add_padCount_mod s.crcCnt
    rw [execAll_cons, execAll_cons, execAll_nil, exec_eq, execState_crcPad4_of_mod hmod]
  case worked =>
    simp only [execAll_cons, execAll_nil, execState_crcInit, execState_crcByte, execState_crcPad4, withCrc_crcAcc,
      withCrc_crcCnt, withCrc_withCrc]
    have hacc : crcFold (crcStep crcStart 0x02) (zeros (padCount (0#32 + 1#32).toNat)) = 0x7B1EF5A2#32 := by
      decide +kernel
    rw [hacc]
    rfl

/-! The commands of the other units leave the CRC unit alone (R141). -/

section OtherUnits

variable (s : State) (a c : Word)

theorem startCommand_withCrc (b : Byte) : startCommand b (s.withCrc a c) = (startCommand b s).withCrc a c := by
  simp only [startCommand, apply_ite (State.withCrc a c)]; rfl

theorem startRaw_withCrc : startRaw (s.withCrc a c) = (startRaw s).withCrc a c := by
  simp only [startRaw, apply_ite (State.withCrc a c)]; rfl

theorem appendByte_withCrc (b : Byte) : appendByte b (s.withCrc a c) = (appendByte b s).withCrc a c := by
  simp only [appendByte, apply_ite (State.withCrc a c)]; rfl

theorem sendFrame_withCrc : sendFrame (s.withCrc a c) = (sendFrame s).withCrc a c := by
  simp only [sendFrame, apply_ite (State.withCrc a c)]; rfl

theorem abortFrame_withCrc : abortFrame (s.withCrc a c) = (abortFrame s).withCrc a c := by
  simp only [abortFrame, apply_ite (State.withCrc a c)]; rfl

theorem arm_withCrc (m : RxMode) : arm m (s.withCrc a c) = (arm m s).withCrc a c := by
  simp only [arm, apply_ite (State.withCrc a c)]; rfl

theorem emitByte_withCrc (b : Byte) : emitByte b (s.withCrc a c) = (emitByte b s).withCrc a c := by
  simp only [emitByte, apply_ite (State.withCrc a c)]; rfl

/-- A command of another unit, other than `SRESET`, neither reads nor writes the accumulator and the count. -/
theorem execState_withCrc {i : Instr} (hi : isCrcUnit i = false) (hr : i ≠ .sreset) :
    execState i (s.withCrc a c) = (execState i s).withCrc a c := by
  cases i with
  | nop => rfl
  | crcInit | crcByte _ | crcPad4 => cases hi
  | sreset => exact absurd rfl hr
  | txStartRaw => exact startRaw_withCrc s a c
  | txByte b => exact appendByte_withCrc s a c b
  | txSend => exact sendFrame_withCrc s a c
  | txAbort => exact abortFrame_withCrc s a c
  | rxFrame | rxByte | rxAckFrame => exact arm_withCrc s a c _
  | _ => exact startCommand_withCrc s a c _

/-- So such a command keeps the accumulator and the count. -/
theorem execState_keeps_crc {i : Instr} (hi : isCrcUnit i = false) (hr : i ≠ .sreset) :
    (execState i s).crcAcc = s.crcAcc ∧ (execState i s).crcCnt = s.crcCnt := by
  have h := execState_withCrc s s.crcAcc s.crcCnt hi hr
  rw [withCrc_self] at h
  exact ⟨by rw [h, withCrc_crcAcc], by rw [h, withCrc_crcCnt]⟩

end OtherUnits

theorem ofNat_length_cons (b : Byte) (bs : List Byte) :
    1#32 + BitVec.ofNat 32 bs.length = BitVec.ofNat 32 (b :: bs).length := by
  rw [List.length_cons, Nat.add_comm, BitVec.ofNat_add]

/-- Commands whose CRC-unit commands are the `CRC_BYTE`s of `bs` fold `bs` into the accumulator and count it, whatever
commands of the other units stand between them (R136). -/
theorem execAll_folds {is : List Instr} {bs : List Byte} (hbs : is.filter isCrcUnit = bs.map .crcByte)
    (hr : .sreset ∉ is) (s : State) :
    ∃ t, execAll is s = .next t ∧ t.crcAcc = crcFold s.crcAcc bs ∧
      t.crcCnt = s.crcCnt + BitVec.ofNat 32 bs.length := by
  induction is generalizing bs s with
  | nil =>
    obtain rfl : bs = [] := List.map_eq_nil_iff.mp hbs.symm
    exact ⟨s, rfl, rfl, (BitVec.add_zero _).symm⟩
  | cons i is ih =>
    rw [List.mem_cons, not_or] at hr
    obtain ⟨hi, his⟩ := hr
    rw [execAll_cons]
    cases hc : isCrcUnit i with
    | false =>
      rw [List.filter_cons_of_neg (by simp [hc])] at hbs
      obtain ⟨hacc, hcnt⟩ := execState_keeps_crc s hc (Ne.symm hi)
      rw [← hacc, ← hcnt]
      exact ih hbs his (execState i s)
    | true =>
      rw [List.filter_cons_of_pos hc, eq_comm, List.map_eq_cons_iff] at hbs
      obtain ⟨b, bs, rfl, rfl, hbs⟩ := hbs
      obtain ⟨t, ht, hacc, hcnt⟩ := ih hbs.symm his (execState (.crcByte b) s)
      refine ⟨t, ht, hacc, ?_⟩
      rw [hcnt, execState_crcByte, withCrc_crcCnt, BitVec.add_assoc, ofNat_length_cons]

/-- The padding of a count is that of the length it counts, modulo 2^32 as it is. -/
theorem padCount_ofNat (n : Nat) : padCount (BitVec.ofNat 32 n).toNat = padCount n := by
  rw [BitVec.toNat_ofNat, padCount, padCount, Nat.mod_mod_of_dvd n (by decide)]

/-- Settles O25: the commands fold the bytes from `crcStart` on, and `CRC_PAD4` folds the zeros after them. -/
theorem crcUnitComputesCrc32 : Obligations.CrcUnitComputesCrc32 := by
  intro s is bs hbs hr
  obtain ⟨t, ht, hacc, hcnt⟩ := execAll_folds hbs hr (execState .crcInit s)
  rw [execState_crcInit, withCrc_crcAcc] at hacc
  rw [execState_crcInit, withCrc_crcCnt, BitVec.zero_add] at hcnt
  refine ⟨t, execState .crcPad4 t, by rw [execAll_cons, ht], hacc, hcnt, exec_eq .crcPad4 t, ?_, ?_⟩
  · rw [execState_crcPad4, hacc, hcnt, padCount_ofNat]
    exact (crcFold_append crcStart bs (zeros (padCount bs.length))).symm
  · rw [execState_crcPad4, hcnt, padCount_ofNat]
    exact (BitVec.ofNat_add ..).symm

theorem respond_of_resp {r : Response} {s : State} (h : s.resp = r) : respond r s = s := by
  rw [respond, ← h]

/-- Writing the `CRC_BYTE` of each byte of a sequence to `CMD` folds the sequence (R92, R134). The bus answers each
write as it answered the access before, so the answer does not change. -/
theorem runSteps_crcBytes (bs : List Byte) {s : State} (hs : s.rstN = true) (hresp : s.resp = .written) :
    runSteps (bs.map fun b => issue (.crcByte b)) s =
      .next (s.withCrc (crcFold s.crcAcc bs) (s.crcCnt + BitVec.ofNat 32 bs.length)) := by
  induction bs generalizing s with
  | nil =>
    refine (runSteps_nil s).trans (congrArg Host.Outcome.next ?_)
    rw [crcFold_nil, List.length_nil, BitVec.add_zero, withCrc_self]
  | cons b bs ih =>
    have hrest := ih (s := s.withCrc (crcStep s.crcAcc b) (s.crcCnt + 1#32)) hs hresp
    rw [withCrc_withCrc, withCrc_crcAcc, withCrc_crcCnt, BitVec.add_assoc, ofNat_length_cons] at hrest
    rw [List.map_cons, runSteps_cons, act_issue _ hs, andThen_next, respond_of_resp hresp, execState_crcByte, hrest,
      crcFold_cons]

/-- Settles O29: `CRC_INIT` starts the accumulator and the bytes of the image buffer, as many as the area has, are
folded into it. -/
theorem hostProcedureComputesTheImageCrc : Obligations.HostProcedureComputesTheImageCrc := by
  intro s size m hs h4 hm
  have hrun : runSteps (imageProgram size m) s =
      .next ((respond .written s).withCrc (crc32 (imageBuffer size m)) (BitVec.ofNat 32 size)) := by
    rw [imageProgram, runSteps_cons, act_issue _ hs, andThen_next, execState_crcInit,
      runSteps_crcBytes _ (by exact hs) (by rfl), withCrc_withCrc, withCrc_crcCnt, BitVec.zero_add,
      length_imageBuffer h4 hm]
    rfl
  exact ⟨_, hrun, imageCrcFor_of_le hm, rfl, rfl⟩

end Sys2Proof.Machine
end

section
/-! PROOF. The CRC unit and the serializer do not share state (40_crc.md R141): a command of the CRC unit is a change of
the CRC unit's contents, and a command of the TX unit and an acceptance commute with every such change. -/

namespace Sys2Proof.Machine

/-- A command of the CRC unit writes the accumulator and the count alone, and what it writes depends on them alone: two
states that agree in them are given the same two values. -/
theorem execState_crcUnit {i : Instr} (hi : isCrcUnit i = true) {s s' : State} (ha : s'.crcAcc = s.crcAcc)
    (hc : s'.crcCnt = s.crcCnt) :
    ∃ a c, execState i s = s.withCrc a c ∧ execState i s' = s'.withCrc a c := by
  cases i with
  | crcInit => exact ⟨_, _, execState_crcInit s, execState_crcInit s'⟩
  | crcByte b => exact ⟨_, _, execState_crcByte b s, by rw [execState_crcByte, ha, hc]⟩
  | crcPad4 => exact ⟨_, _, execState_crcPad4 s, by rw [execState_crcPad4, ha, hc]⟩
  | _ => cases hi

theorem not_isCrcUnit_of_isTxUnit {i : Instr} (h : isTxUnit i = true) : isCrcUnit i = false ∧ i ≠ .sreset := by
  cases i <;> simp [isTxUnit, isCrcUnit] at h ⊢

/-- The acceptance of a byte neither reads nor writes the accumulator and the count. -/
theorem txAccept_withCrc {s u : State} (h : txAccept s = .next u) (a c : Word) :
    txAccept (s.withCrc a c) = .next (u.withCrc a c) := by
  rcases txAccept_cases s with ⟨hst, e⟩ | ⟨-, -, e⟩ | ⟨hst, hpos, e⟩
  · obtain rfl : s = u := Host.Outcome.next.inj (e.symm.trans h)
    simp [txAccept, hst]
  · cases e.symm.trans h
  · obtain rfl : emitByte _ s = u := Host.Outcome.next.inj (e.symm.trans h)
    simp [txAccept, hst, hpos, emitByte_withCrc]

theorem txAccept_keeps_crc {s u : State} (h : txAccept s = .next u) :
    u.crcAcc = s.crcAcc ∧ u.crcCnt = s.crcCnt := by
  have hu := txAccept_withCrc h s.crcAcc s.crcCnt
  rw [withCrc_self, h] at hu
  injection hu with hu
  exact ⟨by rw [hu, withCrc_crcAcc], by rw [hu, withCrc_crcCnt]⟩

/-- Settles O27: the TX command, or the acceptance, keeps what the CRC command reads and commutes with what it
writes. -/
theorem crcUnitAndSerializerAreIndependent : Obligations.CrcUnitAndSerializerAreIndependent := by
  intro i j s hi hj
  obtain ⟨hj, hr⟩ := not_isCrcUnit_of_isTxUnit hj
  obtain ⟨hacc, hcnt⟩ := execState_keeps_crc s hj hr
  refine ⟨?orders, ?emission, ?crcUnit, ?txUnit⟩
  case orders =>
    obtain ⟨a, c, hs, hsj⟩ := execState_crcUnit hi hacc hcnt
    simp only [execAll_cons, execAll_nil, hs, hsj, execState_withCrc s a c hj hr]
  case emission =>
    intro t u ht hu
    obtain ⟨hua, huc⟩ := txAccept_keeps_crc hu
    obtain ⟨a, c, hs, hsu⟩ := execState_crcUnit hi hua huc
    rw [exec_eq, hs] at ht
    injection ht with ht
    exact ⟨u.withCrc a c, ht ▸ txAccept_withCrc hu a c, by rw [exec_eq, hsu]⟩
  case crcUnit =>
    intro s' ha hc
    obtain ⟨a, c, hs, hs'⟩ := execState_crcUnit hi ha hc
    exact ⟨s.withCrc a c, by rw [exec_eq, hs], by rw [exec_eq, hs']; rfl⟩
  case txUnit =>
    intro a c
    refine ⟨execState j s, exec_eq j s, hacc, hcnt, ?_⟩
    rw [exec_eq]
    exact congrArg Host.Outcome.next (execState_withCrc s a c hj hr)

end Sys2Proof.Machine
end

section
/-! PROOF. The commands of the TX unit (41_tx_serializer.md R161 to R165): what each does under each of its guards, and
the statements about them. -/

namespace Sys2Proof.Machine

theorem exec_of_execState {i : Instr} {s t : State} (h : execState i s = t) : exec i s = .next t := by
  rw [exec_eq, h]

section Guards

variable {s : State}

theorem startRaw_sending (h : s.txState = .sending) : startRaw s = raise .errState s := if_pos h

theorem startRaw_ok (h : s.txState ≠ .sending) :
    startRaw s = lower .txDone { s with txKind := .raw, txCnt := 0, txPos := 0, txState := .opened } := if_neg h

theorem appendByte_not_open (b : Byte) (h : s.txState ≠ .opened) : appendByte b s = raise .errState s := if_pos h

theorem appendByte_full (b : Byte) (h : s.txState = .opened) (hc : s.txCnt = Config.pTxcap) :
    appendByte b s = raise .txOvf { s with txState := .idle, txCnt := 0 } :=
  (if_neg (not_not_intro h)).trans (if_pos hc)

theorem appendByte_room (b : Byte) (h : s.txState = .opened) (hc : s.txCnt ≠ Config.pTxcap) :
    appendByte b s = { s with txBuf := s.txBuf.write s.txCnt b, txCnt := s.txCnt + 1 } :=
  (if_neg (not_not_intro h)).trans (if_neg hc)

theorem sendFrame_not_open (h : s.txState ≠ .opened) : sendFrame s = raise .errState s := if_pos h

/-- A send from OPEN fixes the frame; LWRAP is set by a body above 251 bytes and kept otherwise (R164). -/
theorem sendFrame_open (h : s.txState = .opened) :
    sendFrame s =
      { fixFrame s with ev := { s.ev with lwrap := s.ev.lwrap || decide (s.txCnt + 4 > 255) } } := by
  rcases sendFrame_cases s with ⟨hno, -⟩ | ⟨-, hlen, e⟩ | ⟨-, hlen, e⟩
  · exact absurd h hno
  · rw [e, decide_eq_true hlen, Bool.or_true]; rfl
  · rw [e, decide_eq_false (Nat.not_lt.mpr hlen), Bool.or_false]; rfl

/-- The sequence a send fixes is the frame of the body (R96, R97, R164). -/
theorem sendFrame_txSeq (h : s.txState = .opened) : (sendFrame s).txSeq = frameOf (txBody s) := by
  rw [sendFrame_open h, frameOf, txBody_length]; rfl

theorem abortFrame_sending (h : s.txState = .sending) : abortFrame s = raise .errState s := if_pos h

theorem abortFrame_open (h : s.txState = .opened) : abortFrame s = { s with txState := .idle, txCnt := 0 } := by
  simp [abortFrame, h]

theorem abortFrame_idle (h : s.txState = .idle) : abortFrame s = s := by
  simp [abortFrame, h]

end Guards

/-- An abort after an abort does nothing more: the state is left as it was, or IDLE (R165). -/
theorem abortFrame_abortFrame (s : State) : abortFrame (abortFrame s) = abortFrame s := by
  rcases abortFrame_cases s with ⟨h, e⟩ | ⟨-, e⟩ | ⟨-, e⟩
  · rw [e, abortFrame_sending (s := raise .errState s) h]; rfl
  · rw [e, abortFrame_idle rfl]
  · rw [e, e]

/-- Settles O30: the three guards of `TX_START_CMD`; the body and the buffer of the accepted case are those after one
write at index 0. -/
theorem startCommandOpensACommandFrame : Obligations.StartCommandOpensACommandFrame := by
  refine fun s c => ⟨rfl, fun h => ?sending, fun h hc => ?refused, fun h h1 h9 => ?accepted⟩
  case sending => exact exec_of_execState (startCommand_sending h)
  case refused => exact exec_of_execState (startCommand_refused h hc)
  case accepted =>
    have hexec := exec_of_execState (i := .txStartCmd c) (startCommand_ok h h1 h9)
    exact ⟨hexec, _, hexec, txBody_of_command rfl rfl, Memory.read_write_same _ _ _,
      fun i hi => Memory.read_write_other _ _ _ _ hi⟩

/-- Settles O31: the two guards of `TX_START_RAW`. -/
theorem startRawOpensARawFrame : Obligations.StartRawOpensARawFrame :=
  ⟨by decide, fun _ =>
    ⟨fun h => exec_of_execState (startRaw_sending h), fun h => exec_of_execState (startRaw_ok h)⟩⟩

/-- Settles O32: the three guards of `TX_BYTE`; an accepted byte is one write at index `tx_cnt`, the end of the body. -/
theorem bodyByteIsAppendedOrOverflows : Obligations.BodyByteIsAppendedOrOverflows := by
  refine fun s b => ⟨rfl, fun h => ?notOpen, fun h hc => ?full, fun h hc => ?room⟩
  case notOpen => exact exec_of_execState (appendByte_not_open b h)
  case full => exact exec_of_execState (appendByte_full b h hc)
  case room =>
    exact ⟨_, exec_of_execState (appendByte_room b h hc), rfl, txBody_of_append rfl rfl,
      Memory.read_write_same _ _ _, fun i hi => Memory.read_write_other _ _ _ _ hi⟩

/-- Settles O33: a send from OPEN is `sendFrame_open`, whose padding is that of the body's length; the corner cases are
its length byte and LWRAP at four counts. -/
theorem sendFixesTheFrameOfTheBody : Obligations.SendFixesTheFrameOfTheBody := by
  refine ⟨by decide, fun s => ⟨fun h => ?notOpen, fun h => ?frame, fun h hc => ?empty, fun h hc => ?longest,
    fun h hc => ?wraps, fun h hc => ?wrapsTo4⟩⟩
  case notOpen => exact exec_of_execState (sendFrame_not_open h)
  case frame =>
    refine ⟨paddedCrc (txBody s), ?_, exec_of_execState (sendFrame_open h)⟩
    rw [paddedCrc, txBody_length]; rfl
  case empty =>
    refine ⟨_, exec_eq .txSend s, (sendFrame_txSeq h).trans ?_⟩
    rw [txBody_of_raw hc]
    decide
  all_goals
    exact ⟨_, exec_of_execState (sendFrame_open h), (congrArg lengthByte hc).trans (by decide), by simp [hc]⟩

/-- Settles O34: the three guards of `TX_ABORT`, and that it is idempotent. -/
theorem abortDiscardsOnlyAnOpenFrame : Obligations.AbortDiscardsOnlyAnOpenFrame := by
  refine ⟨by decide, fun s => ⟨fun h => ?sending, fun h => ?opened, fun h => ?idle, ?twice⟩⟩
  case sending => exact exec_of_execState (abortFrame_sending h)
  case opened => exact exec_of_execState (abortFrame_open h)
  case idle => exact exec_of_execState (abortFrame_idle h)
  case twice =>
    rw [execAll_cons, execAll_cons, execAll_nil, exec_eq]
    exact congrArg Host.Outcome.next (abortFrame_abortFrame s)

end Sys2Proof.Machine
end

section
/-! PROOF. The serializer meets the source's `encode` (41_tx_serializer.md R166 to R168): the `TX_BYTE`s of a list
append it to the body, and as many acceptances as bytes remain move the rest of the sequence to the sink. -/

namespace Sys2Proof.Machine

/-- The state once the rest of its sequence has left the port (R166, R167). -/
def emitted (s : State) : State :=
  { s with
    sink := s.sink ++ s.txSeq.drop s.txPos, txPos := s.txSeq.length, txState := .idle
    ev := { s.ev with txDone := true } }

/-- With one byte left, the acceptance of it completes the frame (R167). -/
theorem emitByte_last {s : State} (hpos : s.txPos < s.txSeq.length) (hlast : s.txPos + 1 = s.txSeq.length) :
    emitByte s.txSeq[s.txPos] s = emitted s := by
  have hdrop : s.txSeq.drop s.txPos = [s.txSeq[s.txPos]] := by
    rw [List.drop_eq_getElem_cons hpos, hlast, List.drop_length]
  rw [emitByte, if_pos hlast, emitted, hdrop, ← hlast]; rfl

/-- With more bytes left, the acceptance moves one and leaves the rest of the sequence to emit (R166). -/
theorem emitByte_more (b : Byte) {s : State} (hmore : s.txPos + 1 ≠ s.txSeq.length) :
    emitByte b s = { s with sink := s.sink ++ [b], txPos := s.txPos + 1 } := if_neg hmore

theorem emitted_emitByte {s : State} (hpos : s.txPos < s.txSeq.length) (hmore : s.txPos + 1 ≠ s.txSeq.length) :
    emitted (emitByte s.txSeq[s.txPos] s) = emitted s := by
  rw [emitByte_more _ hmore, emitted, emitted, List.drop_eq_getElem_cons hpos, ← List.append_cons]

/-- An acceptance while a byte is left moves it (R75, R166). -/
theorem act_txReady_sending {s : State} (hr : s.rstN = true) (hst : s.txState = .sending)
    (hpos : s.txPos < s.txSeq.length) : act .txReady s = .next (emitByte s.txSeq[s.txPos] s) := by
  rw [act_txReady hr, txAccept, if_pos hst, List.getElem?_eq_getElem hpos]

/-- As many acceptances as bytes remain complete the frame (R166, R167). -/
theorem runSteps_txReady (n : Nat) {s : State} (hr : s.rstN = true) (hst : s.txState = .sending)
    (hn : s.txPos + (n + 1) = s.txSeq.length) :
    runSteps (List.replicate (n + 1) .txReady) s = .next (emitted s) := by
  induction n generalizing s with
  | zero =>
    have hpos : s.txPos < s.txSeq.length := by omega
    rw [List.replicate_succ, runSteps_cons, act_txReady_sending hr hst hpos, andThen_next, emitByte_last hpos hn]
    rfl
  | succ n ih =>
    have hpos : s.txPos < s.txSeq.length := by omega
    have hmore : s.txPos + 1 ≠ s.txSeq.length := by omega
    rw [List.replicate_succ, runSteps_cons, act_txReady_sending hr hst hpos, andThen_next,
      ← emitted_emitByte hpos hmore, emitByte_more _ hmore]
    exact ih hr hst (by dsimp only; omega)

/-- The state with other contents of the body buffer (R25). -/
def State.withBody (m : Memory) (n : Nat) (s : State) : State := { s with txBuf := m, txCnt := n }

/-- Writing the `TX_BYTE` of each byte of a list to `CMD` appends the list to the open body, where it fits (R163). The
bus answers each write as it answered the access before, so the answer does not change. -/
theorem runSteps_bodyBytes (bs : List Byte) {s : State} (hr : s.rstN = true) (hopen : s.txState = .opened)
    (hresp : s.resp = .written) (hroom : s.txCnt + bs.length ≤ Config.pTxcap) :
    ∃ m, runSteps (bodyBytes bs) s = .next (s.withBody m (s.txCnt + bs.length)) ∧
      txBody (s.withBody m (s.txCnt + bs.length)) = txBody s ++ bs := by
  induction bs generalizing s with
  | nil => exact ⟨s.txBuf, rfl, (List.append_nil _).symm⟩
  | cons b bs ih =>
    rw [List.length_cons] at hroom ⊢
    have hact : act (issue (.txByte b)) s = .next (s.withBody (s.txBuf.write s.txCnt b) (s.txCnt + 1)) := by
      rw [act_issue _ hr, respond_of_resp hresp]
      exact congrArg Host.Outcome.next (appendByte_room b hopen (by omega))
    obtain ⟨m, hrun, hbody⟩ := ih (s := s.withBody (s.txBuf.write s.txCnt b) (s.txCnt + 1)) hr hopen hresp
      (by dsimp only [State.withBody]; omega)
    have hcnt : s.txCnt + (bs.length + 1) = s.txCnt + 1 + bs.length := by omega
    rw [hcnt]
    refine ⟨m, ?_, hbody.trans ?_⟩
    · rw [bodyBytes, List.map_cons, runSteps_cons, hact]; exact hrun
    · rw [txBody_of_append rfl rfl, List.append_assoc]; rfl

@[simp] theorem length_frameOf (body : List Byte) : (frameOf body).length = body.length + 5 := by
  simp [frameOf, appendCrc, leBytes]

/-- What R168 says of the state `t` once the frame of a body, begun in the state `s`, has left the port. -/
def FrameSent (s : State) (body : List Byte) (t : State) : Prop :=
  t.sink = s.sink ++ frameOf body ∧
  t.txState = .idle ∧ t.ev.txDone = true ∧ t.txCnt = body.length ∧ t.txPos = body.length + 5 ∧
  t.ev.errOpc = s.ev.errOpc ∧ t.ev.errState = s.ev.errState ∧ t.ev.errArg = s.ev.errArg ∧
  t.ev.txOvf = s.ev.txOvf ∧ t.crcAcc = s.crcAcc ∧ t.crcCnt = s.crcCnt ∧ t.rxState = s.rxState ∧
  t.rxBuf = s.rxBuf ∧ t.rxCtr = s.rxCtr ∧ t.pending = s.pending

theorem frameSent_emitted {s : State} (hopen : s.txState = .opened) :
    FrameSent s (txBody s) (emitted (sendFrame s)) := by
  have hseq := sendFrame_txSeq hopen
  rw [sendFrame_open hopen] at hseq ⊢
  refine ⟨congrArg (s.sink ++ ·) hseq, rfl, rfl, (txBody_length s).symm, ?_, rfl, rfl, rfl, rfl, rfl, rfl, rfl, rfl,
    rfl, rfl⟩
  exact (congrArg List.length hseq).trans (length_frameOf _)

/-- A send from OPEN, then an acceptance for each byte of the frame, sends the frame of the body (R164, R166, R167). -/
theorem runSteps_send {s : State} (hr : s.rstN = true) (hopen : s.txState = .opened) (hresp : s.resp = .written) :
    runSteps (issue .txSend :: List.replicate (s.txCnt + 5) .txReady) s = .next (emitted (sendFrame s)) := by
  have hlen : (sendFrame s).txSeq.length = s.txCnt + 5 := by
    rw [sendFrame_txSeq hopen, length_frameOf, txBody_length]
  rw [runSteps_cons, act_issue _ hr, respond_of_resp hresp, andThen_next]
  rw [sendFrame_open hopen] at hlen
  rw [execState, sendFrame_open hopen]
  exact runSteps_txReady (s.txCnt + 4) hr rfl ((Nat.zero_add _).trans hlen.symm)

/-- From OPEN, the bytes `bs` where they fit, a send and an acceptance for each byte of the frame send the frame of the
body with `bs` appended. -/
theorem runSteps_frame {body bs : List Byte} {s : State} (hr : s.rstN = true) (hopen : s.txState = .opened)
    (hresp : s.resp = .written) (hbody : txBody s ++ bs = body) (hroom : body.length ≤ Config.pTxcap) :
    ∃ t, runSteps (bodyBytes bs ++ [issue .txSend] ++ List.replicate (body.length + 5) .txReady) s = .next t ∧
      FrameSent s body t := by
  subst hbody
  rw [List.length_append, txBody_length] at hroom ⊢
  obtain ⟨m, hrun, hbody⟩ := runSteps_bodyBytes bs hr hopen hresp hroom
  refine ⟨emitted (sendFrame (s.withBody m (s.txCnt + bs.length))), ?_, ?_⟩
  · rw [List.append_assoc, runSteps_append, hrun]
    exact runSteps_send hr hopen hresp
  · rw [← hbody]
    exact frameSent_emitted hopen

/-- The state after the host has started a frame with `n` body bytes in the buffer `m` (R161, R162). -/
def State.started (kind : TxKind) (m : Memory) (n : Nat) (s : State) : State :=
  lower .txDone { s with txKind := kind, txBuf := m, txCnt := n, txPos := 0, txState := .opened, resp := .written }

theorem act_startCommand {c : Byte} {s : State} (hr : s.rstN = true) (hst : s.txState ≠ .sending)
    (h1 : 1 ≤ c.toNat) (h9 : c.toNat ≤ 9) :
    act (issue (.txStartCmd c)) s = .next (s.started .cmd (s.txBuf.write 0 c) 1) :=
  (act_issue _ hr).trans (congrArg Host.Outcome.next (startCommand_ok (s := respond .written s) hst h1 h9))

theorem act_startRaw {s : State} (hr : s.rstN = true) (hst : s.txState ≠ .sending) :
    act (issue .txStartRaw) s = .next (s.started .raw s.txBuf 0) :=
  (act_issue _ hr).trans (congrArg Host.Outcome.next (startRaw_ok (s := respond .written s) hst))

/-- Settles O38: the start leaves the body `[c]`, or an empty one, open, and the rest of the run sends the frame of it
and the payload. -/
theorem serializerMeetsTheSourcesEncode : Obligations.SerializerMeetsTheSourcesEncode := by
  refine fun s p hr hst => ⟨fun c h1 h9 hroom => ?command, fun hroom => ?chunk⟩
  case command =>
    have hbody : txBody (s.started .cmd (s.txBuf.write 0 c) 1) ++ p = c :: p := by
      rw [txBody_of_command rfl rfl, List.singleton_append]
    rw [Line.events, List.cons_append, runSteps_cons, act_startCommand hr hst h1 h9, andThen_next, Nat.add_comm 1]
    exact runSteps_frame (s := s.started .cmd _ 1) (body := c :: p) hr rfl rfl hbody hroom
  case chunk =>
    have hbody : txBody (s.started .raw s.txBuf 0) ++ p = p := by rw [txBody_of_raw rfl, List.nil_append]
    rw [Line.events, List.cons_append, runSteps_cons, act_startRaw hr hst, andThen_next]
    exact runSteps_frame (s := s.started .raw _ 0) hr rfl rfl hbody hroom

end Sys2Proof.Machine
end

section
/-! PROOF. The arrivals of the RX unit (42_rx_deserializer.md R194 to R197): what each does under each of its guards,
and the statements about them. -/

namespace Sys2Proof.Machine

theorem isAck_eq_decide (b : Byte) : isAck b = decide (b = 0x01) := rfl

section Guards

variable {b : Byte} {s : State}

theorem rxArrive_frame_zero (h : s.rxState = .waitFirst) (hm : s.rxMode = .frame) :
    rxArrive 0 s = raise .rxDone { s with rxLen := 0, rxState := .idle } :=
  (rxArrive_frame 0 h hm).trans (if_pos rfl)

theorem rxArrive_frame_nonzero (h : s.rxState = .waitFirst) (hm : s.rxMode = .frame) (hb : b ≠ 0) :
    rxArrive b s = { s with rxLen := b, rxState := .waitBody, rxCtr := s.rxTmo } :=
  (rxArrive_frame b h hm).trans (if_neg hb)

theorem rxArrive_ackFrame_ack (h : s.rxState = .waitFirst) (hm : s.rxMode = .ackFrame) :
    rxArrive 0x01 s = { s with ackOk := true, rxMode := .frame, rxCtr := s.rxTmo } :=
  (rxArrive_ackFrame _ h hm).trans (if_pos rfl)

theorem rxArrive_ackFrame_other (h : s.rxState = .waitFirst) (hm : s.rxMode = .ackFrame) (hb : b ≠ 0x01) :
    rxArrive b s = takeSingle b s :=
  (rxArrive_ackFrame b h hm).trans (if_neg (by rwa [isAck_eq_decide, decide_eq_true_iff]))

/-- Last or not, a body byte is one write at index `rx_cnt` (R197). -/
theorem takeBody_rxBuf : (takeBody b s).rxBuf = s.rxBuf.write s.rxCnt b := by
  rcases takeBody_cases b s with ⟨-, e⟩ | ⟨-, e⟩ <;> exact congrArg State.rxBuf e

theorem takeBody_last (h : s.rxCnt + 1 = s.rxLen.toNat) :
    takeBody b s =
      raise .rxDone { s with rxBuf := s.rxBuf.write s.rxCnt b, rxCnt := s.rxCnt + 1, rxState := .idle } := if_pos h

theorem takeBody_more (h : s.rxCnt + 1 ≠ s.rxLen.toNat) :
    takeBody b s = { s with rxBuf := s.rxBuf.write s.rxCnt b, rxCnt := s.rxCnt + 1 } := if_neg h

end Guards

/-- A step in which the RX source delivers a byte, by the state `t` the arrival makes once the step waits no
longer (R76). -/
theorem step_rxArrive {s t : State} {es : List Event} {b : Byte} (hr : s.rstN = true)
    (hp : s.pending = .rxArrive b :: es) (ht : rxArrive b { s with pending := es } = t) : step s = .next t :=
  ((step_cons hp).trans (act_rxArrive b hr)).trans (congrArg Host.Outcome.next ht)

/-- Settles O44: the drop in IDLE, and the two guards of the length byte. -/
theorem idleByteIsDroppedAndLengthByteIsTaken : Obligations.IdleByteIsDroppedAndLengthByteIsTaken := by
  refine fun s es b hr hp => ⟨fun h => ?dropped, fun h hm hb => ?empty, fun h hm hb => ?body⟩
  case dropped => exact step_rxArrive hr hp (rxArrive_idle b h)
  case empty =>
    subst hb
    exact step_rxArrive hr hp (rxArrive_frame_zero h hm)
  case body => exact step_rxArrive hr hp (rxArrive_frame_nonzero h hm hb)

/-- Settles O45: the acknowledgment, and the single byte of either mode, which is one write at index 0. -/
theorem acknowledgmentIsTheByteOne : Obligations.AcknowledgmentIsTheByteOne := by
  refine fun s es b hr hp h => ⟨fun hm hb => ?acknowledged, fun hm => ?single⟩
  case acknowledged =>
    subst hb
    exact step_rxArrive hr hp (rxArrive_ackFrame_ack h hm)
  case single =>
    have harrive : rxArrive b { s with pending := es } = takeSingle b { s with pending := es } := by
      obtain hm | ⟨hm, hb⟩ := hm
      · exact rxArrive_byte b h hm
      · exact rxArrive_ackFrame_other h hm hb
    exact ⟨_, step_rxArrive hr hp harrive, Memory.read_write_same _ _ _,
      fun i hi => Memory.read_write_other _ _ _ _ hi, rfl⟩

/-- Settles O46: a body byte is one write at index `rx_cnt`, and the two guards of `takeBody` give the rest of the
state. -/
theorem bodyByteIsStoredAndTheLastCompletes : Obligations.BodyByteIsStoredAndTheLastCompletes := by
  refine fun s es b hr hp h => ⟨_, step_rxArrive hr hp (rxArrive_body b h), ?stored, fun i hi => ?kept, fun hl => ?last,
    fun hl => ?more⟩
  case stored => rw [takeBody_rxBuf, Memory.read_write_same]
  case kept => rw [takeBody_rxBuf, Memory.read_write_other _ _ _ _ hi]
  case last => rw [takeBody_rxBuf]; exact takeBody_last hl
  case more => rw [takeBody_rxBuf]; exact takeBody_more hl

end Sys2Proof.Machine
end

section
/-! PROOF. The event positions of a word (10_state.md R29, R30; 60_exceptions.md R272): the bits of `STATUS` and of
`IRQ_EN` by their event bits, and the statement about a write to `IRQ_EN` (43_control.md R223). -/

namespace Sys2Proof.Machine

/-- There are nine event bits (R271): a statement about some bit is a disjunction over them. -/
theorem EventBit.exists_iff {p : EventBit → Prop} :
    (∃ b, p b) ↔ p .txDone ∨ p .rxDone ∨ p .rxTimeout ∨ p .rxDrop ∨ p .txOvf ∨ p .lwrap ∨ p .errOpc ∨ p .errState ∨
      p .errArg := by
  constructor
  · rintro ⟨b, h⟩
    cases b <;> simp only [h, true_or, or_true]
  · rintro (h | h | h | h | h | h | h | h | h) <;> exact ⟨_, h⟩

/-- The set bits of nine events as a word are the positions of the events that are set (R29, R30). -/
theorem Events.toWord_getLsbD_iff (e : Events) (i : Nat) :
    e.toWord.getLsbD i = true ↔ ∃ b : EventBit, e.get b = true ∧ i = b.position := by
  simp [EventBit.exists_iff, Events.toWord, bitAt_getLsbD, Events.get, EventBit.position, or_assoc]

/-- The set bits of the W1C mask are the event positions (R29). -/
theorem eventMask_getLsbD_iff (i : Nat) : eventMask.getLsbD i = true ↔ ∃ b : EventBit, i = b.position := by
  have hmask : eventMask = (Events.ofWord eventMask).toWord := by decide
  have hall : ∀ b, (Events.ofWord eventMask).get b = true := fun b => by cases b <;> decide
  rw [hmask, Events.toWord_getLsbD_iff]
  simp only [hall, true_and]

/-- Taking the nine event positions of a word and putting them back masks the word (R223). -/
theorem Events.toWord_ofWord (v : Word) : (Events.ofWord v).toWord = v &&& eventMask := by
  refine BitVec.eq_of_getLsbD_eq fun i _ => Bool.eq_iff_iff.mpr ?_
  rw [BitVec.getLsbD_and, Bool.and_eq_true, Events.toWord_getLsbD_iff, eventMask_getLsbD_iff]
  constructor
  · rintro ⟨b, hb, rfl⟩
    exact ⟨(Events.ofWord_get v b).symm.trans hb, b, rfl⟩
  · rintro ⟨hv, b, rfl⟩
    exact ⟨b, (Events.ofWord_get v b).trans hv, rfl⟩

/-- Some event is set and enabled (R272). -/
theorem Events.anyEnabled_iff (e en : Events) :
    e.anyEnabled en = true ↔ ∃ b : EventBit, e.get b = true ∧ en.get b = true := by
  simp only [EventBit.exists_iff, Events.anyEnabled, Events.get, Bool.or_eq_true, Bool.and_eq_true, or_assoc]

/-- An event's position in the word holds that event (R29, R30). -/
@[simp] theorem Events.toWord_getLsbD_position (e : Events) (b : EventBit) :
    e.toWord.getLsbD b.position = e.get b := by
  cases b <;> simp [Events.toWord, bitAt_getLsbD, Events.get, EventBit.position, -BitVec.getLsbD_eq_getElem]

/-- `STATUS` shows each event at its position: the views of the unit states end below the event positions (R29). -/
theorem statusWord_getLsbD_position (s : State) (b : EventBit) :
    (statusWord s).getLsbD b.position = s.ev.get b := by
  have hflags : ∀ k ∈ [0, 1, 6], b.position ≠ k := by cases b <;> decide
  have hrx : (s.rxState.code <<< 2).getLsbD b.position = false := by cases s.rxState <;> cases b <;> rfl
  have hmode : (s.rxMode.code <<< 4).getLsbD b.position = false := by cases s.rxMode <;> cases b <;> rfl
  simp [statusWord, bitAt_getLsbD, hflags, hrx, hmode]

/-- `STATUS` meets a word of enables exactly when some event is set and enabled (R272). -/
theorem statusWord_and_toWord_ne_zero_iff (s : State) (en : Events) :
    statusWord s &&& en.toWord ≠ 0 ↔ s.ev.anyEnabled en = true := by
  rw [Events.anyEnabled_iff, Ne, BitVec.ofNat_eq_ofNat, BitVec.zero_iff_eq_false, not_forall]
  simp only [BitVec.getLsbD_and, Bool.not_eq_false, Bool.and_eq_true]
  constructor
  · rintro ⟨i, hs, hen⟩
    obtain ⟨b, hb, rfl⟩ := (Events.toWord_getLsbD_iff en i).mp hen
    exact ⟨b, (statusWord_getLsbD_position s b).symm.trans hs, hb⟩
  · rintro ⟨b, hev, hen⟩
    exact ⟨b.position, (statusWord_getLsbD_position s b).trans hev, (en.toWord_getLsbD_position b).trans hen⟩

/-- The step of a 32-bit write at a register's own offset (R62, R66). -/
theorem step_write {s : State} {es : List Event} {r : Reg} {v : Word} (hr : s.rstN = true)
    (hp : s.pending = .host (.write (.offset r.offset) .word v) :: es) (hlt : r.offset < 0x200)
    (hreg : accessedReg r.offset .word = some r) : step s = writeReg r v { s with pending := es } :=
  (step_cons hp).trans (hostAccess_write v hr (Location.offset?_offset hlt) hreg)

/-- Settles O9: the write stores the event positions of `v`, whose word is the masked `v`; `STATUS` meets that word
exactly when an event it enables is set. -/
theorem irqEnableWriteStoresTheEventPositions : Obligations.IrqEnableWriteStoresTheEventPositions := by
  intro s es v hr hp
  have hstep : step s = .next { s with pending := es, resp := .written, irqEn := Events.ofWord v } :=
    step_write (r := .irqEn) hr hp (by decide) rfl
  refine ⟨_, hstep, rfl, Events.toWord_ofWord v, ?interrupt⟩
  case interrupt =>
    have hmeets := statusWord_and_toWord_ne_zero_iff s (Events.ofWord v)
    rw [Events.toWord_ofWord] at hmeets
    rw [irq, hr, Bool.true_and]
    exact hmeets.symm

end Sys2Proof.Machine
end

section
/-! PROOF. `NOP` (43_control.md R220): the word 0 is the only word with OPC 0 that decodes. -/

namespace Sys2Proof

/-- A command word is joined from its three fields (R90). -/
theorem joinWord_fields (w : Word) :
    joinWord (w.extractLsb' 0 8) (w.extractLsb' 8 8) (w.extractLsb' 16 16) = w := by
  have hlow : w.extractLsb' 8 8 ++ w.extractLsb' 0 8 = w.extractLsb' 0 16 :=
    BitVec.extractLsb'_append_extractLsb'_eq_extractLsb' rfl
  have hword : w.extractLsb' 16 16 ++ w.extractLsb' 0 16 = w.extractLsb' 0 32 :=
    BitVec.extractLsb'_append_extractLsb'_eq_extractLsb' rfl
  rw [joinWord, hlow, hword, BitVec.extractLsb'_eq_self]

/-- A word with OPC 0 and a nonzero ARG8 or RSV does not decode (R92, R220). -/
theorem decodeCmd_of_opc_zero {w : Word} (hopc : w.extractLsb' 0 8 = 0) (hw : w ≠ 0) :
    ∃ e, decodeCmd w = .error e := by
  rw [decodeCmd, Code.ofWord, hopc, decodeCode]
  split_ifs with hrsv
  case neg => exact ⟨_, rfl⟩
  case pos =>
    refine ⟨.nonzeroArg, if_neg fun harg => hw ?_⟩
    rw [← joinWord_fields w, hopc, harg, hrsv]
    decide

namespace Machine

/-- A `CMD` write of a word that does not decode raises ERR_OPC (R92). -/
theorem writeCmd_of_error {w : Word} {e : DecodeError} (h : decodeCmd w = .error e) (s : State) :
    writeCmd w s = .next (raise .errOpc s) := by
  rw [writeCmd_eq, h]

/-- Settles O19: `NOP` completes with the state as it is, and another word with OPC 0 does not decode. -/
theorem nopHasNoEffect : Obligations.NopHasNoEffect := by
  refine ⟨by decide, fun s => ⟨exec_eq .nop s, fun w hopc hw => ?notNop⟩⟩
  case notNop =>
    obtain ⟨e, he⟩ := decodeCmd_of_opc_zero hopc hw
    exact writeCmd_of_error he s

end Machine

end Sys2Proof
end

section
/-! PROOF. The interrupt output (60_exceptions.md R272), from the two readings of `Events.anyEnabled`: by event bits and
as `STATUS & IRQ_EN`. -/

namespace Sys2Proof.Machine

/-- With `rst_n` high nothing masks the interrupt output (R272, R301). -/
theorem irq_of_rstN {s : State} (hr : s.rstN = true) : irq s = s.ev.anyEnabled s.irqEn := by
  rw [irq, hr, Bool.true_and]

/-- Settles O11: the output is `Events.anyEnabled` of the state's events and enables, and the registers `STATUS` and
`IRQ_EN` show these two at the same positions. -/
theorem irqIsAnyEnabledEvent : Obligations.IrqIsAnyEnabledEvent := by
  intro s hr
  rw [irq_of_rstN hr]
  exact ⟨Events.anyEnabled_iff s.ev s.irqEn, (statusWord_and_toWord_ne_zero_iff s s.irqEn).symm⟩

end Sys2Proof.Machine
end

section
/-! PROOF. The encoding round trip (30_encoding.md R90 to R95, R100): the decoder and the encoder are inverse on raw
encodings, the bytes of a raw encoding hold it, and the three checks of R92 come in their order. -/

namespace Sys2Proof

theorem noOperand_eq_ok {a : Byte} {i j : Instr} (h : noOperand a i = .ok j) : a = 0 ∧ i = j := by
  unfold noOperand at h
  split_ifs at h with ha
  exact ⟨ha, Except.ok.inj h⟩

theorem noOperand_nonzero {a : Byte} (h : a ≠ 0) (i : Instr) : noOperand a i = .error .nonzeroArg := if_neg h

/-- A command decodes from its own opcode and operand alone (R93). -/
theorem encode_of_decodeOpc {opc a : Byte} {i : Instr} (h : decodeOpc opc a = .ok i) : encode i = .cmd opc a 0 := by
  unfold decodeOpc at h
  split at h
  case h_14 => cases h
  all_goals
    rename_i hopc
    obtain rfl := (BitVec.toNat_eq_nat.mp hopc).2
  case h_3 | h_5 | h_7 =>
    obtain rfl := Except.ok.inj h
    rfl
  all_goals
    obtain ⟨rfl, rfl⟩ := noOperand_eq_ok h
    rfl

/-- A wire command decodes from its own byte alone (R100). -/
theorem encode_of_decodeWire {b : Byte} {i : Instr} (h : decodeWire b = .ok i) : encode i = .wire b := by
  unfold decodeWire at h
  split at h
  case h_10 => cases h
  all_goals
    rename_i hb
    obtain rfl := (BitVec.toNat_eq_nat.mp hb).2
    obtain rfl := Except.ok.inj h
    rfl

/-- A raw encoding that decodes to an instruction is the instruction's encoding. -/
theorem encode_of_decodeCode {c : Code} {i : Instr} (h : decodeCode c = .ok i) : encode i = c := by
  cases c with
  | wire b => exact encode_of_decodeWire h
  | cmd opc a rsv =>
    rw [decodeCode] at h
    split_ifs at h with hrsv
    rw [hrsv]
    exact encode_of_decodeOpc h

theorem decodeCode_encode (i : Instr) : decodeCode (encode i) = .ok i := by cases i <;> rfl

/-- The lanes of a raw encoding decode as the raw encoding does (R67, R90). -/
theorem decodeBytes_bytes (c : Code) : decodeBytes c.bytes = decodeCode c := by
  cases c with
  | wire b => rfl
  | cmd opc a rsv =>
    show decodeCmd (wordOfBytes _ _ _ _) = _
    rw [Machine.wordOfBytes_byteOf, decodeCmd_joinWord]

/-- Settles O13: the bytes decode as the raw encoding, which the encoder and the decoder carry there and back; an
encoding of four bytes is a command word. -/
theorem decodingTheEncodingGivesTheInstruction : Obligations.DecodingTheEncodingGivesTheInstruction := by
  refine fun i => ⟨(decodeBytes_bytes _).trans (decodeCode_encode i), fun hlen => ?_⟩
  have hi := decodeCode_encode i
  rw [encodeWord]
  cases hc : encode i with
  | wire b => rw [hc] at hlen; cases hlen
  | cmd opc a rsv => rw [← hi, hc, Code.word, decodeCmd_joinWord]

/-- The four lanes of a word built from four bytes are the bytes (R67). -/
theorem byteOf_wordOfBytes (b0 b1 b2 b3 : Byte) :
    byteOf (wordOfBytes b0 b1 b2 b3) 0 = b0 ∧ byteOf (wordOfBytes b0 b1 b2 b3) 1 = b1 ∧
      byteOf (wordOfBytes b0 b1 b2 b3) 2 = b2 ∧ byteOf (wordOfBytes b0 b1 b2 b3) 3 = b3 := by
  unfold byteOf wordOfBytes
  refine ⟨?_, ?_, ?_, ?_⟩
  all_goals
    apply BitVec.eq_of_getLsbD_eq
    intro k hk
    simp only [BitVec.getLsbD_append, BitVec.getLsbD_extractLsb']
    interval_cases k <;> simp

theorem bytes_ofWord (w : Word) : (Code.ofWord w).bytes = [byteOf w 0, byteOf w 1, byteOf w 2, byteOf w 3] := by
  simp only [Code.ofWord, Code.bytes, joinWord_fields]

/-- Settles O14: a list that decodes is one wire byte or the four lanes of a word, and holds the raw encoding of the
instruction it decodes to. -/
theorem decodedBytesAreTheEncoding : Obligations.DecodedBytesAreTheEncoding := by
  intro bs i h
  unfold decodeBytes at h
  split at h
  case h_1 b => rw [encode_of_decodeWire h]; rfl
  case h_2 b0 b1 b2 b3 =>
    obtain ⟨h0, h1, h2, h3⟩ := byteOf_wordOfBytes b0 b1 b2 b3
    rw [encode_of_decodeCode h, bytes_ofWord, h0, h1, h2, h3]
  case h_3 => cases h

/-! Which of R92's checks fails first. -/

/-- What an opcode decodes to, by its form in the table of R93: nothing, a command without an operand, or a command of
any operand. -/
theorem decodeOpc_cases (opc a : Byte) :
    (opcForms.lookup opc = none ∧ decodeOpc opc a = .error .reservedOpc) ∨
      (opcForms.lookup opc = some .none ∧ ∃ i, decodeOpc opc a = noOperand a i) ∨
      (opcForms.lookup opc = some .byte ∧ ∃ i, decodeOpc opc a = .ok i) := by
  unfold decodeOpc
  split
  case h_14 =>
    refine .inl ⟨List.lookup_eq_none_iff.mpr fun p hp => bne_iff_ne.mpr ?_, rfl⟩
    rintro rfl
    fin_cases hp <;> contradiction
  all_goals
    rename_i hopc
    obtain rfl := (BitVec.toNat_eq_nat.mp hopc).2
  case h_3 | h_5 | h_7 => exact .inr (.inr ⟨rfl, _, rfl⟩)
  all_goals exact .inr (.inl ⟨rfl, _, rfl⟩)

theorem lookup_opcForms_of_not_mem {opc : Byte} (h : opc ∉ opcForms.map Prod.fst) : opcForms.lookup opc = none :=
  List.lookup_eq_none_iff.mpr fun _ hp => bne_iff_ne.mpr fun e => h (e ▸ List.mem_map_of_mem hp)

/-- A word decodes exactly when it passes the three checks (R92). -/
theorem decodeCmd_iff_wf (w : Word) : (∃ i, decodeCmd w = .ok i) ↔ (Code.ofWord w).wf = true := by
  constructor
  · rintro ⟨i, h⟩
    rw [← encode_of_decodeCode h]
    cases i <;> rfl
  · intro h
    simp only [Code.ofWord, Code.wf, Code.rsvClear, Code.assigned, Code.argAllowed, Bool.and_eq_true, Bool.or_eq_true,
      beq_iff_eq] at h
    obtain ⟨⟨hrsv, hopc⟩, harg⟩ := h
    rw [decodeCmd, Code.ofWord, decodeCode, if_pos hrsv]
    obtain ⟨hf, -⟩ | ⟨hf, i, hi⟩ | ⟨-, hi⟩ := decodeOpc_cases (w.extractLsb' 0 8) (w.extractLsb' 8 8)
    · rw [hf] at hopc; cases hopc
    · have ha : w.extractLsb' 8 8 = 0 := by simpa [hf] using harg
      exact ⟨i, hi.trans (if_pos ha)⟩
    · exact hi

/-- Settles O15: a zero RSV leaves the decoding to the opcode, whose form says whether ARG8 is checked. -/
theorem wordDecodesExactlyWhenWellFormed : Obligations.WordDecodesExactlyWhenWellFormed := by
  intro w
  have hrsv (h : w.extractLsb' 16 16 = 0) : decodeCmd w = decodeOpc (w.extractLsb' 0 8) (w.extractLsb' 8 8) := if_pos h
  generalize w.extractLsb' 0 8 = opc at *
  generalize w.extractLsb' 8 8 = a at *
  refine ⟨decodeCmd_iff_wf w, fun h => if_neg h, fun h hopc => ?reserved, fun h hopc ha => ?operand,
    fun h hopc => ?form⟩
  case reserved =>
    rw [hrsv h]
    obtain ⟨-, e⟩ | ⟨hf, -⟩ | ⟨hf, -⟩ := decodeOpc_cases opc a
    · exact e
    all_goals
      rw [lookup_opcForms_of_not_mem hopc] at hf
      cases hf
  case operand =>
    rw [hrsv h]
    fin_cases hopc <;> exact noOperand_nonzero ha _
  case form =>
    rw [hrsv h]
    fin_cases hopc <;> rfl

/-- Settles O12: each word is evaluated. -/
theorem wordsOfTheOpcodeMapDecode : Obligations.WordsOfTheOpcodeMapDecode :=
  ⟨rfl, rfl, rfl, rfl, rfl, rfl, rfl, rfl, rfl, rfl, rfl⟩

/-- A word that decodes is the word of the instruction it decodes to (R90, R93). -/
theorem encodeWord_of_decodeCmd {w : Word} {i : Instr} (h : decodeCmd w = .ok i) : encodeWord i = w := by
  rw [encodeWord, encode_of_decodeCode h]
  exact joinWord_fields w

/-- No word decodes to a wire command (R93). -/
theorem not_wire_of_decodeCmd {w : Word} {i : Instr} {b : Byte} (h : decodeCmd w = .ok i) : encode i ≠ .wire b := by
  rw [encode_of_decodeCode h]
  exact Code.noConfusion

end Sys2Proof
end

section
/-! PROOF. The host's accesses (20_memory.md R60 to R70): one list of everything an access can be answered with while
`rst_n` is high, and the statements about reads, writes, bad accesses and command writes. -/

namespace Sys2Proof.Machine

/-- The register at an offset has that offset (R62). -/
theorem offset_of_regAt {off : Nat} {r : Reg} (h : regAt off = some r) : r.offset = off := by
  unfold regAt at h
  split at h
  case h_13 =>
    split at h
    · obtain rfl := Option.some.inj h
      show 0x100 + 4 * ((off - 0x100) / 4) = off
      omega
    · cases h
  all_goals
    obtain rfl := Option.some.inj h
    rfl

/-- An access that reaches a register is 32 bits wide at the register's offset (R62, R63). -/
theorem of_accessedReg {off : Nat} {size : AccessSize} {r : Reg} (h : accessedReg off size = some r) :
    size = .word ∧ off = r.offset := by
  unfold accessedReg at h
  split_ifs at h with hacc
  exact ⟨hacc.1, (offset_of_regAt h).symm⟩

theorem accessedReg_word {off : Nat} (h : off % 4 = 0) : accessedReg off .word = regAt off := if_pos ⟨rfl, h⟩

/-- A wire byte is the start of a command with that byte, in the closed set or not (R240; assumption log 3). -/
theorem sendWireByte_eq (b : Byte) (s : State) : sendWireByte b s = .next (startCommand b s) := by
  unfold sendWireByte
  cases h : decodeWire b with
  | error e => rfl
  | ok i =>
    have hi := encode_of_decodeWire h
    cases i <;> cases hi <;> rfl

/-- What a host access is answered with while `rst_n` is high: the fault of R61, the bus error of R63 and R64, or the
effect of a wire byte, of a read, of a command, or of a write to another register. -/
inductive HostAnswer (s : State) : HostAccess → Host.Outcome State Fault Refusal → Prop
  | wire (b : Byte) : HostAnswer s (.wire b) (.next (startCommand b (respond .written s)))
  | readOutside {l : Location} {size : AccessSize} (hl : l.offset? = none) :
    HostAnswer s (.read l size) (.fault (.outsideWindow l))
  | readBad {l : Location} {size : AccessSize} {off : Nat} (hl : l.offset? = some off)
    (hr : accessedReg off size = none) : HostAnswer s (.read l size) (.next (respond .busError s))
  | read {l : Location} {r : Reg} (hl : l.offset? = some r.offset) (hr : accessedReg r.offset .word = some r) :
    HostAnswer s (.read l .word) (.next (readReg r s))
  | writeOutside {l : Location} {size : AccessSize} {v : Word} (hl : l.offset? = none) :
    HostAnswer s (.write l size v) (.fault (.outsideWindow l))
  | writeBad {l : Location} {size : AccessSize} {v : Word} {off : Nat} (hl : l.offset? = some off)
    (hr : accessedReg off size = none) : HostAnswer s (.write l size v) (.next (respond .busError s))
  | command {l : Location} {v : Word} {i : Instr} (hl : l.offset? = some 0x000) (hv : decodeCmd v = .ok i) :
    HostAnswer s (.write l .word v) (.next (execState i (respond .written s)))
  | undecodable {l : Location} {v : Word} {e : DecodeError} (hl : l.offset? = some 0x000)
    (hv : decodeCmd v = .error e) : HostAnswer s (.write l .word v) (.next (raise .errOpc (respond .written s)))
  | write {l : Location} {r : Reg} {v : Word} (hl : l.offset? = some r.offset)
    (hr : accessedReg r.offset .word = some r) (hcmd : r ≠ .cmd) :
    HostAnswer s (.write l .word v) (.next (regWrite (respond .written s) r v))

theorem writeReg_of_ne_cmd {r : Reg} (h : r ≠ .cmd) (v : Word) (s : State) :
    writeReg r v s = .next (regWrite (respond .written s) r v) := by
  cases r with
  | cmd => exact absurd rfl h
  | _ => rfl

/-- An access while `rst_n` is high is answered with one of the listed answers. -/
theorem hostAnswer_hostAccess (a : HostAccess) {s : State} (hs : s.rstN = true) : HostAnswer s a (hostAccess a s) := by
  cases a with
  | wire b =>
    rw [hostAccess, if_pos hs, sendWireByte_eq]
    exact .wire b
  | read l size =>
    cases hl : l.offset? with
    | none =>
      rw [(hostAccess_outside 0 hl).1]
      exact .readOutside hl
    | some off =>
      cases hr : accessedReg off size with
      | none =>
        rw [(hostAccess_bad 0 hs hl hr).1]
        exact .readBad hl hr
      | some r =>
        rw [hostAccess_read hs hl hr]
        obtain ⟨rfl, rfl⟩ := of_accessedReg hr
        exact .read hl hr
  | write l size v =>
    cases hl : l.offset? with
    | none =>
      rw [(hostAccess_outside v hl).2]
      exact .writeOutside hl
    | some off =>
      cases hr : accessedReg off size with
      | none =>
        rw [(hostAccess_bad v hs hl hr).2]
        exact .writeBad hl hr
      | some r =>
        rw [hostAccess_write v hs hl hr]
        obtain ⟨rfl, rfl⟩ := of_accessedReg hr
        by_cases hcmd : r = .cmd
        · subst hcmd
          rw [writeReg, writeCmd_eq]
          cases hv : decodeCmd v with
          | ok i => exact .command hl hv
          | error e => exact .undecodable hl hv
        · rw [writeReg_of_ne_cmd hcmd]
          exact .write hl hr hcmd

end Sys2Proof.Machine
end

section
/-! PROOF. What of the state each unit's invariant speaks of, and which operations leave it as it is. -/

namespace Sys2Proof.Machine

/-- The part of the state that the invariant of the TX unit speaks of (R25). -/
structure TxView where
  state : TxState
  kind : TxKind
  buf : Memory
  cnt : Nat
  seq : List Byte
  pos : Nat
  len : Byte
  crc : Word
  done : Bool

/-- The part of the state that the invariant of the RX unit speaks of (R26). -/
structure RxView where
  state : RxState
  mode : RxMode
  buf : Memory
  cnt : Nat
  len : Byte
  ackOk : Bool
  done : Bool
  timeout : Bool

def State.txView (s : State) : TxView :=
  { state := s.txState, kind := s.txKind, buf := s.txBuf, cnt := s.txCnt, seq := s.txSeq, pos := s.txPos,
    len := s.txLen, crc := s.txCrc, done := s.ev.txDone }

def State.rxView (s : State) : RxView :=
  { state := s.rxState, mode := s.rxMode, buf := s.rxBuf, cnt := s.rxCnt, len := s.rxLen, ackOk := s.ackOk,
    done := s.ev.rxDone, timeout := s.ev.rxTimeout }

/-- What stands outside the CFC: the level of `rst_n`, the steps that wait, the accepted bytes, the last answer and the
draw counter. -/
def State.outside (s : State) : Bool × List Event × List Byte × Response × Nat :=
  (s.rstN, s.pending, s.sink, s.resp, s.draws)

theorem rstN_of_outside {s t : State} (h : t.outside = s.outside) : t.rstN = s.rstN := congrArg Prod.fst h

/-- The TX unit's invariant depends on its view alone. -/
theorem TxInv.of_view {s t : State} (h : TxInv s) (hv : t.txView = s.txView) : TxInv t := by
  cases s with | mk =>
  cases t with | mk =>
  simp only [State.txView, TxView.mk.injEq] at hv
  obtain ⟨rfl, rfl, rfl, rfl, rfl, rfl, rfl, rfl, hd⟩ := hv
  exact ⟨h.bufWf, h.cntBound, h.seqBound, h.posBound, h.bodyWritten, h.cmdFirst, h.openPos, h.sendingFrame,
    fun hst => hd.trans (h.notDone hst)⟩

/-- The RX unit's invariant depends on its view alone. -/
theorem RxInv.of_view {s t : State} (h : RxInv s) (hv : t.rxView = s.rxView) : RxInv t := by
  cases s with | mk =>
  cases t with | mk =>
  simp only [State.rxView, RxView.mk.injEq] at hv
  obtain ⟨rfl, rfl, rfl, rfl, rfl, rfl, hd, ht⟩ := hv
  exact ⟨h.bufWf, h.bodyWritten, h.cntBound, h.waitBody, h.waitFirst, h.noAckYet,
    fun hst => ⟨hd.trans (h.noOutcome hst).1, ht.trans (h.noOutcome hst).2⟩,
    fun hb => h.oneOutcome ⟨hd.symm.trans hb.1, ht.symm.trans hb.2⟩⟩

/-- Everything a byte's arrival can do (R194 to R197). -/
theorem rxArrive_cases (b : Byte) (s : State) :
    (s.rxState = .idle ∧ rxArrive b s = raise .rxDrop s) ∨
      (s.rxState = .waitFirst ∧ s.rxMode = .frame ∧ rxArrive b s = takeLength b s) ∨
      (s.rxState = .waitFirst ∧ (s.rxMode = .byte ∨ s.rxMode = .ackFrame ∧ b ≠ 0x01) ∧
        rxArrive b s = takeSingle b s) ∨
      (s.rxState = .waitFirst ∧ s.rxMode = .ackFrame ∧ b = 0x01 ∧
        rxArrive b s = { s with ackOk := true, rxMode := .frame, rxCtr := s.rxTmo }) ∨
      (s.rxState = .waitBody ∧ rxArrive b s = takeBody b s) := by
  obtain h | h | h := RxState.eq_one_of s.rxState
  · exact .inl ⟨h, rxArrive_idle b h⟩
  · obtain hm | hm | hm := RxMode.eq_one_of s.rxMode
    · exact .inr (.inl ⟨h, hm, rxArrive_frame b h hm⟩)
    · exact .inr (.inr (.inl ⟨h, .inl hm, rxArrive_byte b h hm⟩))
    · by_cases hb : b = 0x01
      · subst hb
        exact .inr (.inr (.inr (.inl ⟨h, hm, rfl, rxArrive_ackFrame_ack h hm⟩)))
      · exact .inr (.inr (.inl ⟨h, .inr ⟨hm, hb⟩, rxArrive_ackFrame_other h hm hb⟩))
  · exact .inr (.inr (.inr (.inr ⟨h, rxArrive_body b h⟩)))

section Frames

variable (s : State)

/-! A command of the TX unit keeps the RX unit's view, an operation of the RX unit the TX unit's, and all of them what
stands outside the CFC. -/

theorem startCommand_keeps (c : Byte) :
    (startCommand c s).rxView = s.rxView ∧ (startCommand c s).outside = s.outside := by
  obtain e | e | ⟨-, -, -, e⟩ := startCommand_cases c s <;> rw [e]
  all_goals exact ⟨rfl, rfl⟩

theorem startRaw_keeps : (startRaw s).rxView = s.rxView ∧ (startRaw s).outside = s.outside := by
  obtain ⟨-, e⟩ | ⟨-, e⟩ := startRaw_cases s <;> rw [e]
  all_goals exact ⟨rfl, rfl⟩

theorem appendByte_keeps (b : Byte) :
    (appendByte b s).rxView = s.rxView ∧ (appendByte b s).outside = s.outside := by
  obtain ⟨-, e⟩ | ⟨-, -, e⟩ | ⟨-, -, e⟩ := appendByte_cases b s <;> rw [e]
  all_goals exact ⟨rfl, rfl⟩

theorem sendFrame_keeps : (sendFrame s).rxView = s.rxView ∧ (sendFrame s).outside = s.outside := by
  obtain ⟨-, e⟩ | ⟨-, -, e⟩ | ⟨-, -, e⟩ := sendFrame_cases s <;> rw [e]
  all_goals exact ⟨rfl, rfl⟩

theorem abortFrame_keeps : (abortFrame s).rxView = s.rxView ∧ (abortFrame s).outside = s.outside := by
  obtain ⟨-, e⟩ | ⟨-, e⟩ | ⟨-, e⟩ := abortFrame_cases s <;> rw [e]
  all_goals exact ⟨rfl, rfl⟩

theorem arm_keeps (m : RxMode) : (arm m s).txView = s.txView ∧ (arm m s).outside = s.outside := by
  obtain ⟨-, e⟩ | ⟨-, e⟩ := arm_cases m s <;> rw [e]
  all_goals exact ⟨rfl, rfl⟩

theorem rxArrive_keeps (b : Byte) : (rxArrive b s).txView = s.txView ∧ (rxArrive b s).outside = s.outside := by
  obtain ⟨-, e⟩ | ⟨-, -, e⟩ | ⟨-, -, e⟩ | ⟨-, -, -, e⟩ | ⟨-, e⟩ := rxArrive_cases b s <;> rw [e]
  case inr.inl => obtain ⟨-, e⟩ | ⟨-, e⟩ := takeLength_cases b s <;> rw [e] <;> exact ⟨rfl, rfl⟩
  case inr.inr.inr.inr => obtain ⟨-, e⟩ | ⟨-, e⟩ := takeBody_cases b s <;> rw [e] <;> exact ⟨rfl, rfl⟩
  all_goals exact ⟨rfl, rfl⟩

theorem tick_keeps : (tick s).txView = s.txView ∧ (tick s).outside = s.outside := by
  obtain ⟨-, e⟩ | ⟨-, -, -, e⟩ | ⟨-, -, -, e⟩ := tick_cases s <;> rw [e]
  all_goals exact ⟨rfl, rfl⟩

theorem crcPad4_keeps :
    (execState .crcPad4 s).txView = s.txView ∧ (execState .crcPad4 s).rxView = s.rxView ∧
      (execState .crcPad4 s).outside = s.outside := by
  rw [execState_crcPad4]
  exact ⟨rfl, rfl, rfl⟩

/-- The acceptance of a byte, which the sink sees, keeps the RX unit's view and the reset input. -/
theorem emitByte_keeps (b : Byte) : (emitByte b s).rxView = s.rxView ∧ (emitByte b s).rstN = s.rstN := by
  unfold emitByte
  split <;> exact ⟨rfl, rfl⟩

/-- No instruction, not even `SRESET`, touches what stands outside the CFC. -/
theorem execState_outside (i : Instr) : (execState i s).outside = s.outside := by
  cases i with
  | nop | crcInit | crcByte _ | sreset => rfl
  | crcPad4 => exact (crcPad4_keeps s).2.2
  | txStartRaw => exact (startRaw_keeps s).2
  | txByte b => exact (appendByte_keeps s b).2
  | txSend => exact (sendFrame_keeps s).2
  | txAbort => exact (abortFrame_keeps s).2
  | rxFrame | rxByte | rxAckFrame => exact (arm_keeps s _).2
  | _ => exact (startCommand_keeps s _).2

/-- A command of no TX unit, other than `SRESET`, leaves the TX unit as it is. -/
theorem execState_txView {i : Instr} (hi : isTxUnit i = false) (hr : i ≠ .sreset) :
    (execState i s).txView = s.txView := by
  cases i with
  | nop | crcInit | crcByte _ => rfl
  | crcPad4 => exact (crcPad4_keeps s).1
  | rxFrame | rxByte | rxAckFrame => exact (arm_keeps s _).1
  | sreset => exact absurd rfl hr
  | _ => cases hi

/-- A command of no RX unit, other than `SRESET`, leaves the RX unit as it is. -/
theorem execState_rxView {i : Instr} (hi : isRxUnit i = false) (hr : i ≠ .sreset) :
    (execState i s).rxView = s.rxView := by
  cases i with
  | nop | crcInit | crcByte _ => rfl
  | crcPad4 => exact (crcPad4_keeps s).2.1
  | rxFrame | rxByte | rxAckFrame => cases hi
  | sreset => exact absurd rfl hr
  | txStartRaw => exact (startRaw_keeps s).1
  | txByte b => exact (appendByte_keeps s b).1
  | txSend => exact (sendFrame_keeps s).1
  | txAbort => exact (abortFrame_keeps s).1
  | _ => exact (startCommand_keeps s _).1

theorem regWrite_outside (r : Reg) (v : Word) : (regWrite s r v).outside = s.outside := by cases r <;> rfl

/-- A write to a register other than `STATUS` leaves both units as they are. -/
theorem regWrite_views {r : Reg} (h : r ≠ .status) (v : Word) :
    (regWrite s r v).txView = s.txView ∧ (regWrite s r v).rxView = s.rxView := by
  cases r with
  | status => exact absurd rfl h
  | _ => exact ⟨rfl, rfl⟩

end Frames

end Sys2Proof.Machine
end

section
/-! PROOF. The invariant (10_state.md R20, R25, R26): every operation of a unit keeps the invariant of the unit, the
other operations keep its view, and so every step keeps the invariant of the machine. -/

namespace Sys2Proof.Machine

theorem Memory.filled_iff {m : Memory} {n : Nat} : m.filled n = true ↔ ∀ i < n, (m.read i).isSome = true := by
  simp [Memory.filled]

/-- A byte written behind the written bytes is one more of them. -/
theorem Memory.filled_write {m : Memory} {n : Nat} (b : Byte) (h : m.filled n = true) :
    (m.write n b).filled (n + 1) = true := by
  rw [Memory.filled_iff] at h ⊢
  intro i hi
  rw [Memory.read_write]
  split
  · rfl
  · exact h i (by omega)

section TxUnit

variable {s : State} (h : TxInv s)
include h

theorem startCommand_txInv (c : Byte) : TxInv (startCommand c s) := by
  obtain e | e | ⟨-, h1, h9, e⟩ := startCommand_cases c s <;> rw [e]
  · exact h.of_view rfl
  · exact h.of_view rfl
  · have hfirst : txBufByte (startCommand c s) 0 = c := by rw [e]; simp [txBufByte]
    rw [e] at hfirst
    exact { h with
      bufWf := Memory.write_wf _ _ _ h.bufWf
      cntBound := Nat.le_trans (by decide : 1 ≤ 251) Config.le_pTxcap
      posBound := Nat.zero_le _
      bodyWritten := Memory.filled_write c rfl
      cmdFirst := fun _ _ => ⟨le_rfl, by rwa [hfirst], by rwa [hfirst]⟩
      openPos := fun _ => rfl
      sendingFrame := nofun
      notDone := fun _ => rfl }

theorem startRaw_txInv : TxInv (startRaw s) := by
  obtain ⟨-, e⟩ | ⟨-, e⟩ := startRaw_cases s <;> rw [e]
  · exact h.of_view rfl
  · exact { h with
      cntBound := Nat.zero_le _
      posBound := Nat.zero_le _
      bodyWritten := rfl
      cmdFirst := fun _ => nofun
      openPos := fun _ => rfl
      sendingFrame := nofun
      notDone := fun _ => rfl }

/-- Discarding the open frame keeps the invariant (R163, R165). -/
theorem discard_txInv : TxInv { s with txState := .idle, txCnt := 0 } :=
  { h with
    cntBound := Nat.zero_le _
    bodyWritten := rfl
    cmdFirst := fun hst => absurd rfl hst
    openPos := nofun
    sendingFrame := nofun
    notDone := fun hst => absurd rfl hst }

theorem appendByte_txInv (b : Byte) : TxInv (appendByte b s) := by
  obtain ⟨-, e⟩ | ⟨-, -, e⟩ | ⟨hst, hc, e⟩ := appendByte_cases b s <;> rw [e]
  · exact h.of_view rfl
  · exact (discard_txInv h).of_view rfl
  · exact { h with
      bufWf := Memory.write_wf _ _ _ h.bufWf
      cntBound := lt_of_le_of_ne h.cntBound hc
      bodyWritten := Memory.filled_write b h.bodyWritten
      cmdFirst := fun hidle hk => by
        obtain ⟨hcnt, hfirst⟩ := h.cmdFirst hidle hk
        have hkept : (s.txBuf.write s.txCnt b).read 0 = s.txBuf.read 0 :=
          Memory.read_write_other _ _ _ _ (by omega)
        refine ⟨Nat.le_succ_of_le hcnt, ?_⟩
        simp only [txBufByte, hkept]
        exact hfirst
      sendingFrame := fun hs => absurd (hst.symm.trans hs) (by decide) }

/-- The frame a send fixes meets the invariant (R164). -/
theorem fixFrame_txInv (hst : s.txState = .opened) : TxInv (fixFrame s) := by
  have hseq : (fixFrame s).txSeq = frameOf (txBody s) := by rw [frameOf, txBody_length]; rfl
  have hlen : (fixFrame s).txSeq.length = s.txCnt + 5 := by rw [hseq, length_frameOf, txBody_length]
  have hidle : s.txState ≠ .idle := by rw [hst]; decide
  exact { h with
    seqBound := by rw [hlen]; exact Nat.add_le_add_right h.cntBound 5
    posBound := Nat.zero_le _
    cmdFirst := fun _ => h.cmdFirst hidle
    openPos := nofun
    sendingFrame := fun _ => ⟨hseq, by rw [hlen]; exact Nat.succ_pos _, rfl, rfl⟩
    notDone := fun _ => h.notDone hidle }

theorem sendFrame_txInv : TxInv (sendFrame s) := by
  obtain ⟨-, e⟩ | ⟨hst, -, e⟩ | ⟨hst, -, e⟩ := sendFrame_cases s <;> rw [e]
  · exact h.of_view rfl
  · exact (fixFrame_txInv h hst).of_view rfl
  · exact fixFrame_txInv h hst

theorem abortFrame_txInv : TxInv (abortFrame s) := by
  obtain ⟨-, e⟩ | ⟨-, e⟩ | ⟨-, e⟩ := abortFrame_cases s <;> rw [e]
  · exact h.of_view rfl
  · exact discard_txInv h
  · exact h

theorem emitByte_txInv (b : Byte) (hst : s.txState = .sending) : TxInv (emitByte b s) := by
  obtain ⟨hseq, hpos, hlen, hcrc⟩ := h.sendingFrame hst
  by_cases hlast : s.txPos + 1 = s.txSeq.length
  · rw [emitByte, if_pos hlast]
    exact { h with
      posBound := hlast.le
      cmdFirst := fun hs => absurd rfl hs
      openPos := nofun
      sendingFrame := nofun
      notDone := fun hs => absurd rfl hs }
  · rw [emitByte_more b hlast]
    exact { h with
      posBound := hpos
      openPos := fun hs => absurd (hst.symm.trans hs) (by decide)
      sendingFrame := fun _ => ⟨hseq, lt_of_le_of_ne hpos hlast, hlen, hcrc⟩ }

/-- The acknowledgment of events keeps the invariant: it sets none of them (R222). -/
theorem acknowledge_txInv (v : Word) : TxInv (acknowledge v s) :=
  { h with
    notDone := fun hst => by
      show (s.ev.txDone && _) = false
      rw [h.notDone hst, Bool.false_and] }

/-- A command of the TX unit keeps its invariant. -/
theorem execState_txInv {i : Instr} (hr : i ≠ .sreset) : TxInv (execState i s) := by
  cases hi : isTxUnit i with
  | false => exact h.of_view (execState_txView s hi hr)
  | true =>
    cases i with
    | txStartRaw => exact startRaw_txInv h
    | txByte b => exact appendByte_txInv h b
    | txSend => exact sendFrame_txInv h
    | txAbort => exact abortFrame_txInv h
    | nop | crcInit | crcByte _ | crcPad4 | rxFrame | rxByte | rxAckFrame | sreset => cases hi
    | _ => exact startCommand_txInv h _

end TxUnit

section RxUnit

variable {s : State} (h : RxInv s)
include h

theorem arm_rxInv (m : RxMode) : RxInv (arm m s) := by
  obtain ⟨-, e⟩ | ⟨-, e⟩ := arm_cases m s <;> rw [e]
  · exact h.of_view rfl
  · exact { h with
      bodyWritten := rfl
      cntBound := Nat.zero_le _
      waitBody := nofun
      waitFirst := fun _ => ⟨rfl, rfl⟩
      noAckYet := fun _ _ => rfl
      noOutcome := fun _ => ⟨rfl, rfl⟩
      oneOutcome := nofun }

/-- Ending a wait with RX_DONE keeps the invariant, whatever has been received. -/
theorem complete_rxInv (hst : s.rxState ≠ .idle) {m : Memory} {n : Nat} {len : Byte} {ack : Bool} (hwf : m.wf = true)
    (hfilled : m.filled n = true) (hn : n ≤ len.toNat) :
    RxInv (raise .rxDone { s with ackOk := ack, rxBuf := m, rxCnt := n, rxLen := len, rxState := .idle }) where
  bufWf := hwf
  bodyWritten := hfilled
  cntBound := hn
  waitBody := nofun
  waitFirst := nofun
  noAckYet := fun hs => absurd rfl hs
  noOutcome := fun hs => absurd rfl hs
  oneOutcome := fun hb => by
    obtain ⟨-, ht⟩ := h.noOutcome hst
    exact absurd (ht.symm.trans hb.2) (by decide)

theorem takeLength_rxInv (b : Byte) (hst : s.rxState = .waitFirst) (hm : s.rxMode = .frame) :
    RxInv (takeLength b s) := by
  have hidle : s.rxState ≠ .idle := by rw [hst]; decide
  obtain ⟨hcnt, -⟩ := h.waitFirst hst
  obtain ⟨-, e⟩ | ⟨hb, e⟩ := takeLength_cases b s <;> rw [e]
  · exact complete_rxInv h hidle h.bufWf h.bodyWritten (hcnt ▸ Nat.zero_le _)
  · have hpos : 0 < b.toNat := Nat.pos_of_ne_zero fun h0 => hb (BitVec.eq_of_toNat_eq h0)
    exact { h with
      cntBound := hcnt ▸ Nat.zero_le _
      waitBody := fun _ => ⟨hm, hcnt ▸ hpos⟩
      waitFirst := nofun
      noAckYet := fun _ hs => absurd hm hs
      noOutcome := fun _ => h.noOutcome hidle }

theorem takeSingle_rxInv (b : Byte) (hst : s.rxState = .waitFirst) : RxInv (takeSingle b s) :=
  complete_rxInv h (by rw [hst]; decide) (Memory.write_wf _ _ _ h.bufWf) (Memory.filled_write b rfl) le_rfl

theorem takeBody_rxInv (b : Byte) (hst : s.rxState = .waitBody) : RxInv (takeBody b s) := by
  obtain ⟨hm, hlt⟩ := h.waitBody hst
  have hwf := Memory.write_wf s.rxBuf s.rxCnt b h.bufWf
  have hfilled := Memory.filled_write b h.bodyWritten
  obtain ⟨-, e⟩ | ⟨hmore, e⟩ := takeBody_cases b s <;> rw [e]
  · exact complete_rxInv h (by rw [hst]; decide) hwf hfilled hlt
  · exact { h with
      bufWf := hwf
      bodyWritten := hfilled
      cntBound := hlt
      waitBody := fun _ => ⟨hm, lt_of_le_of_ne hlt hmore⟩
      waitFirst := fun hs => absurd (hst.symm.trans hs) (by decide) }

theorem rxArrive_rxInv (b : Byte) : RxInv (rxArrive b s) := by
  obtain ⟨-, e⟩ | ⟨hst, hm, e⟩ | ⟨hst, -, e⟩ | ⟨hst, -, -, e⟩ | ⟨hst, e⟩ := rxArrive_cases b s <;> rw [e]
  · exact h.of_view rfl
  · exact takeLength_rxInv h b hst hm
  · exact takeSingle_rxInv h b hst
  · exact { h with
      waitBody := fun hs => absurd (hst.symm.trans hs) (by decide)
      noAckYet := fun _ hs => absurd rfl hs }
  · exact takeBody_rxInv h b hst

theorem tick_rxInv : RxInv (tick s) := by
  obtain ⟨-, e⟩ | ⟨hst, -, -, e⟩ | ⟨-, -, -, e⟩ := tick_cases s <;> rw [e]
  · exact h
  · exact { h with
      waitBody := nofun
      waitFirst := nofun
      noAckYet := fun hs => absurd rfl hs
      noOutcome := fun hs => absurd rfl hs
      oneOutcome := fun hb => absurd ((h.noOutcome hst).1.symm.trans hb.1) (by decide) }
  · exact h.of_view rfl

theorem acknowledge_rxInv (v : Word) : RxInv (acknowledge v s) :=
  { h with
    noOutcome := fun hst => by
      obtain ⟨hd, ht⟩ := h.noOutcome hst
      show (s.ev.rxDone && _) = false ∧ (s.ev.rxTimeout && _) = false
      rw [hd, ht, Bool.false_and, Bool.false_and]
      exact ⟨rfl, rfl⟩
    oneOutcome := fun hb => h.oneOutcome ⟨(Bool.and_eq_true_iff.mp hb.1).1, (Bool.and_eq_true_iff.mp hb.2).1⟩ }

/-- A command of the RX unit keeps its invariant. -/
theorem execState_rxInv {i : Instr} (hr : i ≠ .sreset) : RxInv (execState i s) := by
  cases hi : isRxUnit i with
  | false => exact h.of_view (execState_rxView s hi hr)
  | true =>
    cases i with
    | rxFrame | rxByte | rxAckFrame => exact arm_rxInv h _
    | _ => cases hi

end RxUnit

/-- Settles O57: both buffers are empty, both units IDLE and no event is set. -/
theorem invariantHoldsAtReset : Obligations.InvariantHoldsAtReset where
  tx := {
    bufWf := rfl, cntBound := Nat.zero_le _, seqBound := Nat.zero_le _, posBound := le_rfl, bodyWritten := rfl
    cmdFirst := fun hs => absurd rfl hs, openPos := nofun, sendingFrame := nofun, notDone := fun _ => rfl }
  rx := {
    bufWf := rfl, bodyWritten := rfl, cntBound := le_rfl, waitBody := nofun, waitFirst := nofun
    noAckYet := fun hs => absurd rfl hs, noOutcome := fun _ => ⟨rfl, rfl⟩, oneOutcome := nofun }
  underReset := nofun

/-- With `rst_n` high the invariant is that of the two units. -/
theorem Inv.of_units {t : State} (hr : t.rstN = true) (htx : TxInv t) (hrx : RxInv t) : Inv t :=
  ⟨htx, hrx, fun hlow => absurd (hr.symm.trans hlow) (by decide)⟩

/-- A state whose elements hold their reset values meets the invariant. -/
theorem inv_of_eq_cfcReset {t : State} (h : t = cfcReset t) : Inv t where
  tx := by
    rw [h]
    exact invariantHoldsAtReset.tx.of_view rfl
  rx := by
    rw [h]
    exact invariantHoldsAtReset.rx.of_view rfl
  underReset := fun _ => h

/-! Every agent's step while `rst_n` is low leaves the elements at their reset values (R300). -/

theorem hostAccess_low {a : HostAccess} {s t : State} (hlow : s.rstN = false) (h : hostAccess a s = .next t) :
    t = accessUnderReset s := by
  have hrst : ¬ s.rstN = true := by rw [hlow]; decide
  cases a with
  | wire b => exact (Host.Outcome.next.inj ((if_neg hrst).symm.trans h)).symm
  | read l size | write l size v =>
    rw [hostAccess] at h
    cases hl : l.offset? with
    | none => rw [hl] at h; cases h
    | some off =>
      rw [hl] at h
      exact (Host.Outcome.next.inj ((if_neg hrst).symm.trans h)).symm

theorem act_low {e : Event} {s t : State} (hlow : s.rstN = false) (h : act e s = .next t) : t = cfcReset t := by
  have hrst : ¬ s.rstN = true := by rw [hlow]; decide
  cases e with
  | host a => rw [hostAccess_low hlow h]; rfl
  | txReady | rxArrive _ | tick =>
    simp only [act, if_neg hrst] at h
    obtain rfl := Host.Outcome.next.inj h
    rfl
  | rstN level =>
    simp only [act, driveReset, if_neg hrst] at h
    obtain rfl := Host.Outcome.next.inj h
    cases level <;> rfl

/-! Every agent's step while `rst_n` is high keeps the invariant. -/

section High

variable {s t : State} (h : Inv s) (hr : s.rstN = true)
include h hr

theorem execState_inv (i : Instr) : Inv (execState i s) := by
  have hrst := (rstN_of_outside (execState_outside s i)).trans hr
  by_cases hi : i = .sreset
  · subst hi
    exact inv_of_eq_cfcReset rfl
  · exact .of_units hrst (execState_txInv h.tx hi) (execState_rxInv h.rx hi)

theorem regWrite_inv (r : Reg) (v : Word) : Inv (regWrite s r v) := by
  have hrst := (rstN_of_outside (regWrite_outside s r v)).trans hr
  by_cases hs : r = .status
  · subst hs
    exact .of_units hrst (acknowledge_txInv h.tx v) (acknowledge_rxInv h.rx v)
  · obtain ⟨htx, hrx⟩ := regWrite_views s hs v
    exact .of_units hrst (h.tx.of_view htx) (h.rx.of_view hrx)

theorem hostAccess_inv {a : HostAccess} (ha : hostAccess a s = .next t) : Inv t := by
  have hanswer := hostAnswer_hostAccess a hr
  rw [ha] at hanswer
  have hresp (r : Response) : Inv (respond r s) := .of_units hr (h.tx.of_view rfl) (h.rx.of_view rfl)
  cases hanswer with
  | wire b => exact execState_inv (hresp .written) hr (.txStartCmd b)
  | read hl hreg => exact .of_units hr (h.tx.of_view rfl) (h.rx.of_view rfl)
  | readBad hl hreg | writeBad hl hreg => exact hresp _
  | command hl hv => exact execState_inv (hresp .written) hr _
  | undecodable hl hv => exact .of_units hr (h.tx.of_view rfl) (h.rx.of_view rfl)
  | write hl hreg hcmd => exact regWrite_inv (hresp .written) hr _ _

theorem txAccept_inv (ha : txAccept s = .next t) : Inv t := by
  obtain ⟨-, e⟩ | ⟨-, -, e⟩ | ⟨hst, hpos, e⟩ := txAccept_cases s
  · obtain rfl := Host.Outcome.next.inj (e.symm.trans ha)
    exact h
  · cases e.symm.trans ha
  · obtain rfl := Host.Outcome.next.inj (e.symm.trans ha)
    obtain ⟨hview, hrst⟩ := emitByte_keeps s (s.txSeq[s.txPos]'hpos)
    exact .of_units (hrst.trans hr) (emitByte_txInv h.tx _ hst) (h.rx.of_view hview)

end High

/-- Every agent's step keeps the invariant. -/
theorem act_inv {e : Event} {s t : State} (h : Inv s) (ha : act e s = .next t) : Inv t := by
  by_cases hr : s.rstN = true
  · cases e with
    | host a => exact hostAccess_inv h hr ha
    | txReady =>
      rw [act_txReady hr] at ha
      exact txAccept_inv h hr ha
    | rxArrive b =>
      obtain rfl := Host.Outcome.next.inj ((act_rxArrive b hr).symm.trans ha)
      exact .of_units ((rstN_of_outside (rxArrive_keeps s b).2).trans hr) (h.tx.of_view (rxArrive_keeps s b).1)
        (rxArrive_rxInv h.rx b)
    | tick =>
      obtain rfl := Host.Outcome.next.inj ((act_tick hr).symm.trans ha)
      exact .of_units ((rstN_of_outside (tick_keeps s).2).trans hr) (h.tx.of_view (tick_keeps s).1) (tick_rxInv h.rx)
    | rstN level =>
      obtain rfl := Host.Outcome.next.inj ha
      cases level
      · exact inv_of_eq_cfcReset rfl
      · rw [driveReset, if_pos rfl, if_pos hr]
        exact h
  · exact inv_of_eq_cfcReset (act_low (Bool.not_eq_true _ ▸ hr) ha)

/-- The invariant does not speak of the steps that wait. -/
theorem Inv.withPending {s : State} (h : Inv s) (p : List Event) : Inv { s with pending := p } where
  tx := h.tx.of_view rfl
  rx := h.rx.of_view rfl
  underReset := fun hlow => congrArg (fun u : State => { u with pending := p }) (h.underReset hlow)

/-- Settles O58: a step is an agent's, which keeps the invariant, or a cycle in which none acts. -/
theorem stepKeepsTheInvariant : Obligations.StepKeepsTheInvariant := by
  intro s t h hstep
  cases hp : s.pending with
  | nil =>
    obtain rfl := Host.Outcome.next.inj ((step_nil hp).symm.trans hstep)
    unfold quiet
    split
    · exact h
    · exact inv_of_eq_cfcReset rfl
  | cons e es => exact act_inv (h.withPending es) ((step_cons hp).symm.trans hstep)

/-- A run keeps the invariant. -/
theorem runSteps_inv {es : List Event} {s t : State} (h : Inv s) (hrun : runSteps es s = .next t) : Inv t := by
  induction es generalizing s with
  | nil =>
    obtain rfl := Host.Outcome.next.inj hrun
    exact h
  | cons e es ih =>
    rw [runSteps_cons] at hrun
    cases ha : act e s with
    | next u =>
      rw [ha] at hrun
      exact ih (act_inv h ha) hrun
    | fault f => rw [ha] at hrun; cases hrun
    | refused r => rw [ha] at hrun; cases hrun

end Sys2Proof.Machine
end

section
/-! PROOF. Where a step stops (60_exceptions.md R270, R276), and what a frame being sent is in every run
(30_encoding.md R96 to R100): both by the invariant. -/

namespace Sys2Proof.Machine

/-- A host access is answered, or its location is outside the window (R61). -/
theorem hostAccess_next_or_outside (a : HostAccess) (s : State) :
    (∃ t, hostAccess a s = .next t) ∨
      ∃ l, l.offset? = none ∧ hostAccess a s = .fault (.outsideWindow l) ∧
        ∃ size v, a = .read l size ∨ a = .write l size v := by
  by_cases hr : s.rstN = true
  · have hanswer := hostAnswer_hostAccess a hr
    generalize hostAccess a s = o at hanswer
    cases hanswer with
    | readOutside hl => exact .inr ⟨_, hl, rfl, _, 0, .inl rfl⟩
    | writeOutside hl => exact .inr ⟨_, hl, rfl, _, _, .inr rfl⟩
    | _ => exact .inl ⟨_, rfl⟩
  · cases a with
    | wire b => exact .inl ⟨_, if_neg hr⟩
    | read l size =>
      cases hl : l.offset? with
      | none => exact .inr ⟨l, hl, (hostAccess_outside 0 hl).1, size, 0, .inl rfl⟩
      | some off => exact .inl ⟨_, by rw [hostAccess, hl]; exact if_neg hr⟩
    | write l size v =>
      cases hl : l.offset? with
      | none => exact .inr ⟨l, hl, (hostAccess_outside v hl).2, size, v, .inr rfl⟩
      | some off => exact .inl ⟨_, by rw [hostAccess, hl]; exact if_neg hr⟩

/-- While SENDING a byte is left, so an acceptance never finds the sequence exhausted. -/
theorem txAccept_next {s : State} (h : TxInv s) : ∃ t, txAccept s = .next t := by
  obtain ⟨-, e⟩ | ⟨hst, hpos, -⟩ | ⟨-, _, e⟩ := txAccept_cases s
  · exact ⟨_, e⟩
  · obtain ⟨-, hlt, -, -⟩ := h.sendingFrame hst
    omega
  · exact ⟨_, e⟩

/-- From a state of the invariant an agent's step is answered, or is a host access outside the window. -/
theorem act_next_or_outside {s : State} (h : Inv s) (e : Event) :
    (∃ t, act e s = .next t) ∨
      ∃ l, l.offset? = none ∧ act e s = .fault (.outsideWindow l) ∧
        ∃ size v, e = .host (.read l size) ∨ e = .host (.write l size v) := by
  cases e with
  | host a =>
    obtain hnext | ⟨l, hl, hf, size, v, ha⟩ := hostAccess_next_or_outside a s
    · exact .inl hnext
    · exact .inr ⟨l, hl, hf, size, v, ha.imp (congrArg Event.host) (congrArg Event.host)⟩
  | txReady =>
    by_cases hr : s.rstN = true
    · rw [act_txReady hr]
      exact .inl (txAccept_next h.tx)
    · exact .inl ⟨_, if_neg hr⟩
  | rxArrive _ | tick | rstN _ => exact .inl ⟨_, rfl⟩

/-- Settles O59: the step is an agent's, answered or outside the window, or a cycle in which none acts. -/
theorem stepStopsOnlyOutsideTheWindow : Obligations.StepStopsOnlyOutsideTheWindow := by
  intro s h
  cases hp : s.pending with
  | nil =>
    rw [step_nil hp]
    exact ⟨nofun, nofun⟩
  | cons e es =>
    rw [step_cons hp]
    obtain ⟨t, e'⟩ | ⟨l, hl, e', size, v, ha⟩ := act_next_or_outside (h.withPending es) e
    · rw [e']
      exact ⟨nofun, nofun⟩
    · rw [e']
      refine ⟨fun f hf => ⟨l, (Host.Outcome.fault.inj hf).symm, hl, size, v, es, ?_⟩, nofun⟩
      exact ha.imp (congrArg (· :: es)) (congrArg (· :: es))

/-- The body of an open or sent command frame begins with a command byte of the closed set (R25, R100). -/
theorem txBody_of_txInv {s : State} (h : TxInv s) (hst : s.txState ≠ .idle) (hk : s.txKind = .cmd) :
    ∃ (c : Byte) (p : List Byte), txBody s = c :: p ∧ 1 ≤ c.toNat ∧ c.toNat ≤ 9 := by
  obtain ⟨hcnt, h1, h9⟩ := h.cmdFirst hst hk
  obtain ⟨n, hn⟩ := Nat.exists_eq_add_of_le' hcnt
  exact ⟨txBufByte s 0, _, by rw [txBody, hn, List.range_succ_eq_map, List.map_cons], h1, h9⟩

/-- Settles O60: the state a run ends in meets the invariant, whose frame is the frame of a body that begins with a
command byte. -/
theorem everyCommandFrameIsWellFormed : Obligations.EveryCommandFrameIsWellFormed := by
  intro s t es h hrun hst hk
  have htx := (runSteps_inv h hrun).tx
  obtain ⟨hseq, -, -, hcrc⟩ := htx.sendingFrame hst
  obtain ⟨c, p, hbody, h1, h9⟩ := txBody_of_txInv htx (by rw [hst]; decide) hk
  rw [hbody] at hseq hcrc
  refine ⟨c, p, h1, h9, ?_, hcrc⟩
  rw [hseq, hcrc, Nat.add_comm 1 p.length]
  rfl

/-- Settles O56: with no step waiting the cycle is quiet. -/
theorem nothingHappensWithoutAnAgent : Obligations.NothingHappensWithoutAnAgent :=
  fun _ hr hp => (step_nil hp).trans (congrArg Host.Outcome.next (if_pos hr))

end Sys2Proof.Machine
end

section
/-! PROOF. The reset input and `SRESET` (70_reset_and_hazards.md R300, R301; 43_control.md R221). -/

namespace Sys2Proof.Machine

theorem cfcReset_of_low {s : State} (h : s.rstN = false) :
    cfcReset s =
      { State.reset with
        rstN := false, pending := s.pending, sink := s.sink, resp := s.resp, draws := s.draws } := by
  rw [cfcReset, h]

theorem statusWord_cfcReset (s : State) : statusWord (cfcReset s) = 0 := statusWord_of_quiet rfl rfl rfl rfl rfl

/-- Settles O55: `rst_n` low turns every agent's step into `cfcReset`, an access answered with a bus error. -/
theorem resetInputHoldsTheElementsAtReset : Obligations.ResetInputHoldsTheElementsAtReset := by
  refine ⟨fun s => rfl, fun s e hlow hlevel hhost => ?ignored, fun s off size v b a hlow hoff ha => ?access,
    fun s hlow => ?outputs⟩
  case ignored =>
    have hr : ¬ s.rstN = true := by rw [hlow]; decide
    rw [← cfcReset_of_low hlow]
    cases e with
    | host a => exact absurd rfl (hhost a)
    | rstN level => exact absurd rfl (hlevel level)
    | txReady => exact if_neg hr
    | rxArrive b | tick => exact congrArg Host.Outcome.next (if_neg hr)
  case access =>
    have hr : ¬ s.rstN = true := by rw [hlow]; decide
    have hanswer : accessUnderReset s =
        { State.reset with
          rstN := false, pending := s.pending, sink := s.sink, resp := .busError, draws := s.draws } := by
      rw [accessUnderReset, cfcReset_of_low hlow]; rfl
    rw [← hanswer, act_host]
    simp only [List.mem_cons, List.not_mem_nil, or_false] at ha
    have hin := Location.offset?_offset hoff
    obtain rfl | rfl | rfl := ha
    · rw [hostAccess, hin]
      exact if_neg hr
    · rw [hostAccess, hin]
      exact if_neg hr
    · exact if_neg hr
  case outputs =>
    refine ⟨by rw [irq, hlow]; rfl, by rw [txValid, hlow]; rfl, congrArg Host.Outcome.next ?_⟩
    rw [driveReset, if_pos rfl, if_neg (by rw [hlow]; decide)]
    rfl

/-- Settles O20: `SRESET` is `cfcReset`, as is driving `rst_n` low. -/
theorem sresetPutsEveryElementAtReset : Obligations.SresetPutsEveryElementAtReset :=
  ⟨by decide, fun s => ⟨rfl, _, _, rfl, rfl, rfl, statusWord_cfcReset s⟩⟩

end Sys2Proof.Machine
end

section
/-! PROOF. The register map as the host meets it (20_memory.md R61 to R70; 10_state.md R28 to R40): what a read shows,
which accesses do nothing, and the steps of the writes to `CMD`, `STATUS` and `RX_TMO`. -/

namespace Sys2Proof.Machine

theorem RxState.code_shift (x : RxState) : x.code <<< 2 = bitAt (x == .waitFirst) 2 ||| bitAt (x == .waitBody) 3 := by
  cases x <;> rfl

theorem RxMode.code_shift (x : RxMode) : x.code <<< 4 = bitAt (x == .byte) 4 ||| bitAt (x == .ackFrame) 5 := by
  cases x <;> rfl

/-- `STATUS` bit by bit: the views of the unit states in bits 0 to 6, then the event bits (R29). -/
theorem statusWord_getLsbD (s : State) (i : Nat) :
    (statusWord s).getLsbD i =
      ((s.txState == .sending && decide (i = 0)) || (s.txState == .opened && decide (i = 1)) ||
        ((s.rxState == .waitFirst && decide (i = 2)) || (s.rxState == .waitBody && decide (i = 3))) ||
        ((s.rxMode == .byte && decide (i = 4)) || (s.rxMode == .ackFrame && decide (i = 5))) ||
        (s.ackOk && decide (i = 6)) || s.ev.toWord.getLsbD i) := by
  simp [statusWord, RxState.code_shift, RxMode.code_shift, bitAt_getLsbD]

/-- A bit that is no event position is 0 in a word of events. -/
theorem Events.toWord_getLsbD_other (e : Events) {i : Nat} (h : ∀ b : EventBit, i ≠ b.position) :
    e.toWord.getLsbD i = false := by
  rw [← Bool.not_eq_true, Events.toWord_getLsbD_iff]
  rintro ⟨b, -, hb⟩
  exact h b hb

/-- Settles O2: an event bit stands at its position; the other bits are read off the views, bit by bit. -/
theorem statusShowsUnitStatesAndEvents : Obligations.StatusShowsUnitStatesAndEvents := by
  intro s
  have hevent := statusWord_getLsbD_position s
  have hview {i : Nat} (hi : i < 8) : s.ev.toWord.getLsbD i = false :=
    s.ev.toWord_getLsbD_other fun b => by cases b <;> simp only [EventBit.position] <;> omega
  refine ⟨?_, ?_, ?rxState, ?rxMode, ?_, hevent .txDone, hevent .rxDone, hevent .rxTimeout, hevent .rxDrop,
    hevent .txOvf, hevent .lwrap, hevent .errOpc, hevent .errState, hevent .errArg, fun i hi => ?reserved⟩
  case rxState =>
    refine BitVec.eq_of_getLsbD_eq fun i hi => ?_
    rw [BitVec.getLsbD_extractLsb', regRead, statusWord_getLsbD, hview (by omega)]
    interval_cases i <;> cases s.rxState <;> simp
  case rxMode =>
    refine BitVec.eq_of_getLsbD_eq fun i hi => ?_
    rw [BitVec.getLsbD_extractLsb', regRead, statusWord_getLsbD, hview (by omega)]
    interval_cases i <;> cases s.rxMode <;> simp
  case reserved =>
    simp only [List.mem_cons, List.not_mem_nil, or_false] at hi
    have hother : ∀ b : EventBit, i ≠ b.position := fun b => by
      cases b <;> simp only [EventBit.position] <;> omega
    have hviews {k : Nat} (hk : k ≤ 6) : decide (i = k) = false := decide_eq_false (by omega)
    rw [regRead, statusWord_getLsbD, s.ev.toWord_getLsbD_other hother]
    simp only [hviews, Nat.reduceLeDiff, Bool.and_false, Bool.or_false]
  all_goals
    rw [regRead, statusWord_getLsbD, hview (by decide)]
    simp

/-- The step of a 32-bit read at a register's own offset (R62, R65). -/
theorem step_read {s : State} {es : List Event} {r : Reg} (hr : s.rstN = true)
    (hp : s.pending = .host (.read (.offset r.offset) .word) :: es) (hlt : r.offset < 0x200)
    (hreg : accessedReg r.offset .word = some r) : step s = .next (readReg r { s with pending := es }) :=
  (step_cons hp).trans (hostAccess_read hr (Location.offset?_offset hlt) hreg)

/-- The registers of the first twelve offsets (R62). -/
def plainRegs : List Reg :=
  [.cmd, .status, .irqEn, .rxTmo, .crcAcc, .crcCnt, .txCnt, .txPos, .txLen, .txCrc, .rxLen, .rxCnt]

theorem plainRegs_spec : ∀ r ∈ plainRegs,
    r.offset < 0x200 ∧ accessedReg r.offset .word = some r ∧ r.drawsUsed = 0 := by decide

/-- Settles O3: the listed pairs are the offset and the value of the twelve registers, none of which draws. -/
theorem readAnswersTheRegisterAtItsOffset : Obligations.ReadAnswersTheRegisterAtItsOffset := by
  intro s es off v hv hr hp
  have hpair : (off, v) ∈ plainRegs.map fun r => (r.offset, regRead s r) := hv
  obtain ⟨r, hmem, heq⟩ := List.mem_map.mp hpair
  obtain ⟨rfl, rfl⟩ := Prod.mk.inj heq
  obtain ⟨hlt, hreg, hdraws⟩ := plainRegs_spec r hmem
  rw [step_read hr hp hlt hreg, readReg, hdraws]
  cases r <;> rfl

theorem rxBufByte_received {s : State} {i : Nat} {b : Byte} (n : Nat) (hi : i < s.rxCnt)
    (hb : s.rxBuf.read i = some b) : rxBufByte s n i = b := by
  rw [rxBufByte, if_pos hi, hb]
  rfl

theorem rxBufByte_free {s : State} {i : Nat} (n : Nat) (hi : s.rxCnt ≤ i) : rxBufByte s n i = Config.freeRxByte n :=
  if_neg (Nat.not_lt.mpr hi)

/-- Lane `j` of a word of `RX_BUF` shows byte `4k + j` (R40, R67). -/
theorem byteOf_rxBufWord (s : State) (k : Nat) {j : Nat} (hj : j < 4) :
    byteOf (rxBufWord s k) j = rxBufByte s (s.draws + j) (4 * k + j) := by
  obtain ⟨h0, h1, h2, h3⟩ := byteOf_wordOfBytes (rxBufByte s s.draws (4 * k)) (rxBufByte s (s.draws + 1) (4 * k + 1))
    (rxBufByte s (s.draws + 2) (4 * k + 2)) (rxBufByte s (s.draws + 3) (4 * k + 3))
  interval_cases j
  exacts [h0, h1, h2, h3]

/-- Settles O4: the answer is the word of the register, whose lanes are the bytes of the buffer or free. -/
theorem rxBufReadShowsReceivedBytes : Obligations.RxBufReadShowsReceivedBytes := by
  intro s es k hk hr hp
  have hreg : accessedReg (Reg.rxBuf k).offset .word = some (.rxBuf k) :=
    (accessedReg_word (by rw [Reg.offset]; omega)).trans (regAt_rxBuf hk)
  refine ⟨rxBufWord s k, step_read (r := .rxBuf k) hr hp (by rw [Reg.offset]; omega) hreg,
    fun j hj => ⟨fun b hlt hb => ?_, fun hle => ?_⟩⟩
  · exact (byteOf_rxBufWord s k hj).trans (rxBufByte_received _ hlt hb)
  · exact (byteOf_rxBufWord s k hj).trans (rxBufByte_free _ hle)

/-- The accesses of R63 and R64 reach no register. -/
theorem accessedReg_bad {off : Nat} {size : AccessSize}
    (h : size ≠ .word ∨ off % 4 ≠ 0 ∨ (0x030 ≤ off ∧ off < 0x100)) : accessedReg off size = none := by
  unfold accessedReg
  split_ifs with hacc
  · obtain ⟨hw, h4⟩ := hacc
    obtain hw' | h4' | ⟨hlo, hhi⟩ := h
    · exact absurd hw hw'
    · exact absurd h4 h4'
    · exact regAt_unmapped hlo hhi
  · rfl

/-- Settles O5: such an access reaches no register, and is answered with a bus error. -/
theorem badAccessIsABusErrorWithoutEffect : Obligations.BadAccessIsABusErrorWithoutEffect := by
  intro s es off size v hr hoff hbad hp
  obtain ⟨hread, hwrite⟩ := hostAccess_bad (s := { s with pending := es }) v hr (Location.offset?_offset hoff)
    (accessedReg_bad hbad)
  obtain hp | hp := hp
  · exact (step_cons hp).trans hread
  · exact (step_cons hp).trans hwrite

/-- Locations at one window offset are one to an access (R61). -/
theorem hostAccess_congr {l l' : Location} {off : Nat} (h : l.offset? = some off) (h' : l'.offset? = some off)
    (size : AccessSize) (v : Word) (s : State) :
    hostAccess (.read l size) s = hostAccess (.read l' size) s ∧
      hostAccess (.write l size v) s = hostAccess (.write l' size v) s := by
  simp only [hostAccess, h, h', and_self]

/-- Settles O6: an address in the window has the offset from `P_BASE`, another address has none. -/
theorem windowAddressesAreOffsetsFromTheBase : Obligations.WindowAddressesAreOffsetsFromTheBase := by
  have hbase : Config.pBase % 0x200 = 0 := by
    unfold Config.pBase
    omega
  refine ⟨hbase, fun s addr size v => ⟨fun hlo hhi => ?_, fun hout => ?_⟩⟩
  · have hlt : addr - Config.pBase < 0x200 := by omega
    simp only [act_host]
    exact hostAccess_congr (Location.offset?_address ⟨hlo, hlt⟩) (Location.offset?_offset hlt) size v s
  · simp only [act_host]
    exact hostAccess_outside v (Location.offset?_address_out (by omega))

/-- The read-only registers (R62, R66): a write to one leaves the state as it is. -/
theorem regAt_readOnly {off : Nat} (h4 : off % 4 = 0)
    (h : (0x010 ≤ off ∧ off ≤ 0x02C) ∨ (0x100 ≤ off ∧ off ≤ 0x1FC)) :
    ∃ r, regAt off = some r ∧ r ≠ .cmd ∧ ∀ s v, regWrite s r v = s := by
  obtain ⟨hlo, hhi⟩ | ⟨hlo, hhi⟩ := h
  · have hmem : off ∈ [0x010, 0x014, 0x018, 0x01C, 0x020, 0x024, 0x028, 0x02C] := by
      simp only [List.mem_cons, List.not_mem_nil, or_false]
      omega
    fin_cases hmem <;> exact ⟨_, rfl, by decide, fun _ _ => rfl⟩
  · obtain ⟨k, rfl⟩ : ∃ k, off = 0x100 + 4 * k := ⟨(off - 0x100) / 4, by omega⟩
    exact ⟨_, regAt_rxBuf (by omega), nofun, fun _ _ => rfl⟩

/-- Settles O7: the write reaches a read-only register. -/
theorem writeToReadOnlyRegisterIsIgnored : Obligations.WriteToReadOnlyRegisterIsIgnored := by
  intro s es off v hr h4 hoff hp
  obtain ⟨r, hreg, hcmd, hkeep⟩ := regAt_readOnly h4 hoff
  have hacc := hostAccess_write (s := { s with pending := es }) v hr (Location.offset?_offset (by omega))
    ((accessedReg_word h4).trans hreg)
  rw [writeReg_of_ne_cmd hcmd, hkeep] at hacc
  exact (step_cons hp).trans hacc

/-- A line that writes a register at an offset of its own (R62, R66, R103). -/
theorem act_writeLine {s : State} {r : Reg} (v : Word) (hr : s.rstN = true) (hlt : r.offset < 0x200)
    (hreg : accessedReg r.offset .word = some r) : act (writeLine r v) s = writeReg r v s :=
  hostAccess_write v hr (Location.offset?_offset hlt) hreg

/-- The step of a 32-bit write to `CMD` (R69, R92). -/
theorem step_cmd {s : State} {es : List Event} {w : Word} (hr : s.rstN = true)
    (hp : s.pending = .host (.write (.offset 0x000) .word w) :: es) :
    step s = writeCmd w (respond .written { s with pending := es }) :=
  (step_cons hp).trans (hostAccess_cmd w hr)

/-- Settles O16: a word is decoded and run; a wire byte is the start of its command. -/
theorem stepRunsTheDecodedInstruction : Obligations.StepRunsTheDecodedInstruction := by
  refine fun s es i hr => ⟨fun w hw hp => ?_, fun b hb hp => ?_⟩
  · rw [step_cmd hr hp, writeCmd, hw]
    rfl
  · rw [step_cons hp, act_host, hostAccess, if_pos hr, sendWireByte, hb]
    rfl

/-- Settles O17: a word that does not decode raises ERR_OPC. -/
theorem undecodableWordRaisesErrOpcOnly : Obligations.UndecodableWordRaisesErrOpcOnly :=
  fun _ _ _ _ hr hw hp => (step_cmd hr hp).trans (writeCmd_of_error hw _)

/-- Settles O18: both accesses start the command of the byte, or are answered with a bus error while `rst_n` is low. -/
theorem wireByteIsTheStartCommandOfThatByte : Obligations.WireByteIsTheStartCommandOfThatByte := by
  intro s b
  by_cases hr : s.rstN = true
  · have hissue := act_issue (.txStartCmd b) hr
    exact ((if_pos hr).trans (sendWireByte_eq b _)).trans hissue.symm
  · rw [act_host, act_host, hostAccess, if_neg hr, hostAccess, Location.offset?_offset (by decide)]
    exact (if_neg hr).symm

/-- Settles O10: the write stores the deadline; an arm from IDLE loads the stored one. -/
theorem deadlineWriteLeavesTheLoadedCountdown : Obligations.DeadlineWriteLeavesTheLoadedCountdown := by
  refine fun s es v hr hp => ⟨step_write (r := .rxTmo) hr hp (by decide) rfl, fun hidle m hm => ?_⟩
  have hrun : runSteps [writeLine .rxTmo v] s = .next { s with resp := .written, rxTmo := v } := by
    rw [runSteps_cons, act_writeLine v hr (by decide) rfl]
    rfl
  have harm (k : RxMode) : (arm k { s with resp := .written, rxTmo := v }).rxCtr = v := by
    obtain ⟨hbusy, -⟩ | ⟨-, e⟩ := arm_cases k { s with resp := .written, rxTmo := v }
    · exact absurd hidle hbusy
    · rw [e]; rfl
  fin_cases hm
  all_goals exact ⟨_, _, hrun, rfl, harm _⟩

/-- Settles O23: each `CRC_BYTE` is one fold and one count. -/
theorem crcByteFoldsOneByte : Obligations.CrcByteFoldsOneByte := by
  refine fun s b c => ⟨rfl, fun h => ⟨_, rfl, ?wraps⟩, ?twice⟩
  case wraps =>
    show s.crcCnt + 1 = 0
    rw [h]
    rfl
  case twice =>
    rw [execAll_cons, execAll_cons, execAll_nil, execState_crcByte, execState_crcByte, withCrc_withCrc, withCrc_crcAcc,
      withCrc_crcCnt, BitVec.add_assoc]
    rfl

end Sys2Proof.Machine
end

section
/-! PROOF. The TX unit while it sends, and the frames and chunks the host makes (41_tx_serializer.md R160, R165 to R167;
44_wire_commands.md R240 to R251). -/

namespace Sys2Proof.Machine

/-- While SENDING a command of the TX unit sets ERR_STATE and nothing else (R160). -/
theorem execState_sending {i : Instr} {s : State} (hi : isTxUnit i = true) (h : s.txState = .sending) :
    execState i s = raise .errState s := by
  have hopen : s.txState ≠ .opened := by rw [h]; decide
  cases i with
  | txStartRaw => exact startRaw_sending h
  | txByte b => exact appendByte_not_open b hopen
  | txSend => exact sendFrame_not_open hopen
  | txAbort => exact abortFrame_sending h
  | nop | crcInit | crcByte _ | crcPad4 | rxFrame | rxByte | rxAckFrame | sreset => cases hi
  | _ => exact startCommand_sending h

/-- Settles O35: a TX command only raises ERR_STATE, and another command keeps the view of the TX unit. -/
theorem noCommandCutsAFrameShort : Obligations.NoCommandCutsAFrameShort := by
  intro i s hst hr
  refine ⟨_, exec_eq i s, ?_⟩
  cases hi : isTxUnit i with
  | true =>
    rw [execState_sending hi hst]
    exact ⟨hst, rfl, rfl, rfl, rfl, rfl, rfl, fun _ => rfl⟩
  | false =>
    have hview := execState_txView s hi hr
    have hsink : (execState i s).sink = s.sink := congrArg (fun o => o.2.2.1) (execState_outside s i)
    exact ⟨(congrArg TxView.state hview).trans hst, congrArg TxView.seq hview, congrArg TxView.pos hview, hsink,
      congrArg TxView.len hview, congrArg TxView.crc hview, congrArg TxView.cnt hview, nofun⟩

theorem txAccept_sending {s : State} {b : Byte} (hst : s.txState = .sending) (hb : s.txSeq[s.txPos]? = some b) :
    txAccept s = .next (emitByte b s) := by
  rw [txAccept, if_pos hst, hb]

theorem txData_sending {s : State} (hr : s.rstN = true) (hst : s.txState = .sending) :
    txData s = s.txSeq[s.txPos]? := by
  simp [txData, txValid, hr, hst]

/-- Settles O36: the acceptance without a frame, of a byte with more to come, and of the last byte. -/
theorem sinkAcceptsTheFrameByteByByte : Obligations.SinkAcceptsTheFrameByteByByte := by
  intro s es hr hp
  have hstep : step s = txAccept { s with pending := es } := (step_cons hp).trans (act_txReady hr)
  refine ⟨fun hst => hstep.trans (if_neg hst), fun b hst hb hmore => ?_, fun b hst hb hlast => ?_⟩
  all_goals
    refine ⟨(txData_sending hr hst).trans hb, (hstep.trans (txAccept_sending hst hb)).trans ?_⟩
  · exact congrArg Host.Outcome.next (emitByte_more b hmore.ne)
  · exact congrArg Host.Outcome.next (if_pos hlast)

/-- Settles O37: the acceptances of R167, as many as bytes are left. -/
theorem enoughAcceptancesCompleteTheFrame : Obligations.EnoughAcceptancesCompleteTheFrame := by
  intro s hr hst hpos
  obtain ⟨n, hn⟩ : ∃ n, s.txSeq.length - s.txPos = n + 1 := ⟨s.txSeq.length - s.txPos - 1, by omega⟩
  rw [hn]
  exact runSteps_txReady n hr hst (by omega)

/-- The nine wire commands are the starts of their bytes (R100, R240). -/
theorem wireTable_spec {i : Instr} {c : Byte} (h : (i, c) ∈ wireTable) :
    encode i = .wire c ∧ (∀ s, execState i s = startCommand c s) ∧ 1 ≤ c.toNat ∧ c.toNat ≤ 9 := by
  fin_cases h <;> exact ⟨rfl, fun _ => rfl, by decide, by decide⟩

/-- Settles O39: the start of the byte, under its two guards. -/
theorem wireCommandOpensAFrameWithItsByte : Obligations.WireCommandOpensAFrameWithItsByte := by
  intro i c hmem s
  obtain ⟨henc, hstart, h1, h9⟩ := wireTable_spec hmem
  refine ⟨henc, fun h => ?accepted, fun h => exec_of_execState ((hstart s).trans (startCommand_sending h))⟩
  case accepted =>
    have hexec := exec_of_execState ((hstart s).trans (startCommand_ok h h1 h9))
    exact ⟨hexec, _, hexec, txBody_of_command rfl rfl, fun k hk => Memory.read_write_other _ _ _ _ hk⟩

/-- The `TX_BYTE`s of a list append it to the open body, where it fits (R163). -/
theorem execAll_bodyBytes (bs : List Byte) (is : List Instr) {s : State} (hopen : s.txState = .opened)
    (hroom : s.txCnt + bs.length ≤ Config.pTxcap) :
    ∃ t, execAll (bs.map .txByte ++ is) s = execAll is t ∧ t.txState = .opened ∧ txBody t = txBody s ++ bs := by
  induction bs generalizing s with
  | nil => exact ⟨s, rfl, hopen, (List.append_nil _).symm⟩
  | cons b bs ih =>
    rw [List.length_cons] at hroom
    have hstep : execState (.txByte b) s = s.withBody (s.txBuf.write s.txCnt b) (s.txCnt + 1) :=
      appendByte_room b hopen (by omega)
    obtain ⟨t, hrun, ht, hbody⟩ := ih (s := s.withBody (s.txBuf.write s.txCnt b) (s.txCnt + 1)) hopen
      (by dsimp only [State.withBody]; omega)
    refine ⟨t, ?_, ht, hbody.trans ?_⟩
    · rw [List.map_cons, List.cons_append, execAll_cons, hstep, hrun]
    · rw [txBody_of_append rfl rfl, List.append_assoc]
      rfl

/-- A wire command, its payload and a send fix the frame of the command (R164, R240). -/
theorem execAll_wireCommand {i : Instr} {c : Byte} (hmem : (i, c) ∈ wireTable) (p : List Byte) {s : State}
    (hst : s.txState ≠ .sending) (hroom : p.length < 251) :
    ∃ t, execAll (i :: (p.map .txByte ++ [.txSend])) s = .next t ∧ t.txSeq = commandFrame c p := by
  obtain ⟨-, hstart, h1, h9⟩ := wireTable_spec hmem
  obtain ⟨t, hrun, hopen, hbody⟩ := execAll_bodyBytes p [.txSend] (s := startCommand c s)
    (by rw [startCommand_ok hst h1 h9]; rfl)
    (by rw [startCommand_ok hst h1 h9]; exact (by omega : 1 + p.length ≤ 251).trans Config.le_pTxcap)
  refine ⟨sendFrame t, ?_, ?_⟩
  · rw [execAll_cons, hstart, hrun]
    rfl
  · have hfirst : txBody (startCommand c s) = [c] := by
      rw [startCommand_ok hst h1 h9]
      exact txBody_of_command rfl rfl
    rw [sendFrame_txSeq hopen, hbody, hfirst]
    rfl

/-- Settles O40: each frame is the one of its command and payload, evaluated. -/
theorem wireCommandFramesAreAsWrittenOut : Obligations.WireCommandFramesAreAsWrittenOut := by
  intro s hst
  have hframe {i : Instr} {c : Byte} (hmem : (i, c) ∈ wireTable) (p seq : List Byte) (hroom : p.length < 251)
      (hseq : commandFrame c p = seq) :
      ∃ t, execAll (i :: (p.map .txByte ++ [.txSend])) s = .next t ∧ t.txSeq = seq :=
    hseq ▸ execAll_wireCommand hmem p hst hroom
  refine ⟨hframe (c := 1) (by decide) [] _ (by decide) ?_, hframe (c := 2) (by decide) [] _ (by decide) ?_,
    hframe (c := 3) (by decide) [] _ (by decide) ?_, hframe (c := 4) (by decide) [0x1F, 0x01] _ (by decide) ?_,
    hframe (c := 7) (by decide) [] _ (by decide) ?_, hframe (c := 8) (by decide) [] _ (by decide) ?_⟩
  all_goals decide +kernel

/-- The first `k` pieces of `n` bytes, joined, are the first `n·k` bytes. -/
theorem flatten_pieces (p : List Byte) (n k : Nat) :
    ((List.range k).map fun i => (p.drop (n * i)).take n).flatten = p.take (n * k) := by
  induction k with
  | zero => simp
  | succ k ih => rw [List.range_succ, List.map_append, List.flatten_append, ih, Nat.mul_succ, List.take_add]; simp

/-- Settles O41: the pieces cover the payload, and each begins inside it. -/
theorem chunksAreThePayloadInOrder : Obligations.ChunksAreThePayloadInOrder := by
  intro p
  have hcount : chunkCount p.length = (p.length + 249) / 250 := rfl
  refine ⟨?joined, ?count, fun c hc => ?size, fun h300 => ?example300⟩
  case joined =>
    rw [chunks, flatten_pieces, List.take_of_length_le]
    rw [hcount, chunkSize]
    omega
  case count => rw [chunks, List.length_map, List.length_range, hcount]
  case size =>
    obtain ⟨k, hk, rfl⟩ := List.mem_map.mp hc
    rw [List.mem_range, hcount] at hk
    rw [List.length_take, List.length_drop, chunkSize]
    omega
  case example300 =>
    rw [chunks, List.map_map, hcount, h300]
    simp [chunkSize, h300, List.range_succ]

end Sys2Proof.Machine
end

section
/-! PROOF. The deadline of a wait and the arms (42_rx_deserializer.md R190 to R193, R198, R199; 70_reset_and_hazards.md
R304): what a tick does under each of its guards, and runs of ticks. -/

namespace Sys2Proof.Machine

section Guards

variable {s : State}

theorem tick_ignored (h : s.rxState = .idle ∨ s.txState ≠ .idle) : tick s = s :=
  if_neg fun ⟨hrx, htx⟩ => h.elim hrx (· htx)

theorem tick_counts (hrx : s.rxState ≠ .idle) (htx : s.txState = .idle) (hc : s.rxCtr ≠ 0) :
    tick s = { s with rxCtr := s.rxCtr - 1 } := (if_pos ⟨hrx, htx⟩).trans (if_neg hc)

theorem tick_expires (hrx : s.rxState ≠ .idle) (htx : s.txState = .idle) (hc : s.rxCtr = 0) : tick s = expire s :=
  (if_pos ⟨hrx, htx⟩).trans (if_pos hc)

theorem arm_busy (m : RxMode) (h : s.rxState ≠ .idle) : arm m s = raise .errState s := if_pos h

end Guards

/-- The state after a receive of mode `m` is armed (R191 to R193). -/
def State.armed (m : RxMode) (s : State) : State :=
  { s with
    rxMode := m, rxState := .waitFirst, rxCnt := 0, rxLen := 0, ackOk := false, rxCtr := s.rxTmo
    ev := { s.ev with rxDone := false, rxTimeout := false } }

theorem arm_idle {s : State} (m : RxMode) (h : s.rxState = .idle) : arm m s = s.armed m := if_neg (not_not_intro h)

/-- The three arms and their modes (R191 to R193). -/
def armTable : List (Instr × RxMode) := [(.rxFrame, .frame), (.rxByte, .byte), (.rxAckFrame, .ackFrame)]

theorem execState_arm {i : Instr} {m : RxMode} (h : (i, m) ∈ armTable) (s : State) : execState i s = arm m s := by
  fin_cases h <;> rfl

/-- Issuing an arm with the receive unit IDLE arms it (R191 to R193). -/
theorem act_arm {i : Instr} {m : RxMode} {s : State} (h : (i, m) ∈ armTable) (hr : s.rstN = true)
    (hidle : s.rxState = .idle) : act (issue i) s = .next ((respond .written s).armed m) := by
  rw [act_issue i hr, execState_arm h, arm_idle (s := respond .written s) m hidle]

/-- Settles O43: each word is evaluated; the arm has two guards. -/
theorem armStartsAReceiveOnlyInIdle : Obligations.ArmStartsAReceiveOnlyInIdle := by
  intro i m w hmem
  have hword : encodeWord i = w := by fin_cases hmem <;> decide
  have hpair : (i, m) ∈ armTable := by fin_cases hmem <;> decide
  refine ⟨hword, fun s => ⟨fun h => ?_, fun h => ?_⟩⟩
  · exact exec_of_execState ((execState_arm hpair s).trans (arm_busy m h))
  · exact exec_of_execState ((execState_arm hpair s).trans (arm_idle m h))

/-- Settles O47: the three guards of a tick. -/
theorem tickCountsOnlyWhileWaitingWithTxIdle : Obligations.TickCountsOnlyWhileWaitingWithTxIdle := by
  intro s es hr hp
  have hstep : step s = .next (tick { s with pending := es }) := (step_cons hp).trans (act_tick hr)
  refine ⟨fun h => ?_, fun hrx htx hc => ?_, fun hrx htx hc => ?_⟩
  · exact hstep.trans (congrArg Host.Outcome.next (tick_ignored h))
  · exact hstep.trans (congrArg Host.Outcome.next (tick_counts hrx htx hc))
  · exact hstep.trans (congrArg Host.Outcome.next (tick_expires hrx htx hc))

theorem toNat_sub_one {c : Word} (h : c ≠ 0) : (c - 1).toNat + 1 = c.toNat := by
  have := c.isLt
  have hpos : c.toNat ≠ 0 := fun h0 => h (BitVec.eq_of_toNat_eq h0)
  bv_omega

/-- As many ticks as the countdown allows count it down (R198). -/
theorem runSteps_ticks (n : Nat) {s : State} (hr : s.rstN = true) (hrx : s.rxState ≠ .idle) (htx : s.txState = .idle)
    (hn : n ≤ s.rxCtr.toNat) :
    runSteps (List.replicate n .tick) s = .next { s with rxCtr := s.rxCtr - BitVec.ofNat 32 n } := by
  induction n generalizing s with
  | zero =>
    rw [List.replicate_zero, runSteps_nil, BitVec.sub_zero]
  | succ n ih =>
    have hc : s.rxCtr ≠ 0 := fun h0 => by rw [h0] at hn; exact absurd hn (by simp)
    have hsub := toNat_sub_one hc
    rw [List.replicate_succ, runSteps_cons, act_tick hr, andThen_next, tick_counts hrx htx hc]
    rw [ih (s := { s with rxCtr := s.rxCtr - 1 }) hr hrx htx (by dsimp only; omega)]
    dsimp only
    rw [Nat.add_comm, BitVec.ofNat_add, ← sub_sub]
    rfl

/-- Settles O48: the countdown runs to 0, where one more tick expires the wait. -/
theorem waitExpiresOnTheTickAfterItsDeadline : Obligations.WaitExpiresOnTheTickAfterItsDeadline := by
  refine fun s hr hrx htx => ⟨fun n hn => runSteps_ticks n hr hrx htx hn, ?_⟩
  have hzero : s.rxCtr - BitVec.ofNat 32 s.rxCtr.toNat = 0 := by simp
  rw [List.replicate_succ', runSteps_append, runSteps_ticks _ hr hrx htx le_rfl, andThen_next, hzero, runSteps_cons,
    act_tick (by exact hr), tick_expires (by exact hrx) (by exact htx) rfl]
  rfl

/-- While the TX unit is not IDLE no number of ticks changes anything: the deadline is held (R304). -/
theorem runSteps_ticks_held (n : Nat) {s : State} (hr : s.rstN = true) (htx : s.txState ≠ .idle) :
    runSteps (List.replicate n .tick) s = .next s := by
  induction n with
  | zero => rfl
  | succ n ih => rw [List.replicate_succ, runSteps_cons, act_tick hr, tick_ignored (.inr htx), andThen_next, ih]

/-- The nine exchanges: what is armed for each is the arm that its command byte calls for (R250). -/
theorem exchangeOf_spec {c : Byte} {x : Exchange} (h : exchangeOf c = some x) :
    1 ≤ c.toNat ∧ c.toNat ≤ 9 ∧ (armFor x, if c.toNat ≤ 3 then RxMode.ackFrame else .byte) ∈ armTable := by
  unfold exchangeOf at h
  split at h
  case h_10 => cases h
  all_goals
    rename_i hc
    obtain rfl := Option.some.inj h
    rw [hc]
    decide

/-- What R250 and R304 say of the state `t` in which the open frame of `s` is being sent, with a receive armed. -/
def SentAndArmed (m : RxMode) (s t : State) : Prop :=
  t.txState = .sending ∧ t.txSeq = frameOf (txBody s) ∧ t.txPos = 0 ∧ t.rxState = .waitFirst ∧ t.rxCtr = s.rxTmo ∧
  t.rxMode = m ∧ (∀ n, runSteps (List.replicate n .tick) t = .next t) ∧ t.ev.errOpc = s.ev.errOpc ∧
  t.ev.errState = s.ev.errState ∧ t.ev.errArg = s.ev.errArg ∧ t.ev.txOvf = s.ev.txOvf

/-- An arm keeps the open frame, which the send then fixes; no tick counts while it is sent. -/
theorem runSteps_armAndSend {i : Instr} {m : RxMode} {s : State} (h : (i, m) ∈ armTable) (hr : s.rstN = true)
    (hopen : s.txState = .opened) (hidle : s.rxState = .idle) :
    ∃ t, runSteps [issue i, issue .txSend] s = .next t ∧ SentAndArmed m s t := by
  have hsend := sendFrame_open (s := respond .written ((respond .written s).armed m)) hopen
  have hseq := sendFrame_txSeq (s := respond .written ((respond .written s).armed m)) hopen
  rw [hsend] at hseq
  refine ⟨_, ?_, rfl, hseq, rfl, rfl, rfl, rfl, fun n => runSteps_ticks_held n hr nofun, rfl, rfl, rfl, rfl⟩
  rw [runSteps_cons, act_arm h hr hidle, andThen_next, runSteps_cons, act_issue .txSend (by exact hr), execState, hsend]
  rfl

/-- Settles O42: the start and the payload leave the body of the command open, and the arm and the send follow. -/
theorem exchangeIsArmedBeforeItIsSent : Obligations.ExchangeIsArmedBeforeItIsSent := by
  intro s c p x hr hst hidle hx hroom
  obtain ⟨h1, h9, harm⟩ := exchangeOf_spec hx
  obtain ⟨m, hrun, hbody⟩ := runSteps_bodyBytes p (s := s.started .cmd (s.txBuf.write 0 c) 1) hr rfl rfl
    (by rw [Nat.add_comm] at hroom; exact hroom)
  have hfirst : txBody (s.started .cmd (s.txBuf.write 0 c) 1) = [c] := txBody_of_command rfl rfl
  rw [hfirst] at hbody
  obtain ⟨t, hsent, ht⟩ := runSteps_armAndSend
    (s := (s.started .cmd (s.txBuf.write 0 c) 1).withBody m (1 + p.length)) harm hr rfl hidle
  refine ⟨t, ?_, ?_⟩
  · rw [exchangeProgram, runSteps_cons, act_startCommand hr hst h1 h9, andThen_next, runSteps_append, hrun,
      andThen_next]
    exact hsent
  · obtain ⟨htx, hseq, hpos, hrest⟩ := ht
    exact ⟨htx, hseq.trans (congrArg frameOf hbody), hpos, hrest⟩

end Sys2Proof.Machine
end

section
/-! PROOF. What sets and what clears an event bit (60_exceptions.md R271 to R275; 43_control.md R222): everything an
instruction does to the event bits, and with it the statements about them. -/

namespace Sys2Proof.Machine

section EventBits

variable {e : Events} {b c : EventBit} {v : Bool}

/-- Setting a bit clears none. -/
theorem Events.get_put_true (h : e.get b = true) : (e.put c true).get b = true := by
  by_cases hbc : b = c
  · rw [hbc, Events.get_put_same]
  · rw [Events.get_put_other _ _ _ _ hbc, h]

/-- Clearing a bit clears that bit alone. -/
theorem Events.eq_of_put_false (h : e.get b = true) (h' : (e.put c false).get b = false) : b = c := by
  by_contra hbc
  rw [Events.get_put_other _ _ _ _ hbc, h] at h'
  cases h'

theorem Events.get_of_put_false (h : (e.put c false).get b = true) : e.get b = true := by
  by_cases hbc : b = c
  · rw [hbc, Events.get_put_same] at h
    cases h
  · rwa [Events.get_put_other _ _ _ _ hbc] at h

/-- A bit that a write raised is the bit it wrote. -/
theorem Events.eq_of_put_raised (h : e.get b = false) (h' : (e.put c v).get b = true) : b = c := by
  by_contra hbc
  rw [Events.get_put_other _ _ _ _ hbc, h] at h'
  cases h'

end EventBits

/-- The instructions that start a frame (R161, R162, R240). -/
def Starts (i : Instr) : Prop :=
  i = .txStartRaw ∨ ∃ c : Byte, 1 ≤ c.toNat ∧ c.toNat ≤ 9 ∧ (i = .txStartCmd c ∨ encode i = .wire c)

/-- Everything an instruction can do to the event bits of a state: nothing, setting one, a start's or an arm's own
clearing, or the reset of all (R273). -/
inductive EventChange (s : State) (i : Instr) : Events → Prop
  | keep : EventChange s i s.ev
  | raise (b : EventBit) : EventChange s i (s.ev.put b true)
  | start (hi : Starts i) (hst : s.txState ≠ .sending) : EventChange s i (s.ev.put .txDone false)
  | arm (hi : isRxUnit i = true) (hidle : s.rxState = .idle) :
    EventChange s i ((s.ev.put .rxDone false).put .rxTimeout false)
  | reset (hi : i = .sreset) : EventChange s i Events.none

theorem startCommand_eventChange {i : Instr} {c : Byte} (hi : i = .txStartCmd c ∨ encode i = .wire c) (s : State) :
    EventChange s i (startCommand c s).ev := by
  obtain e | e | ⟨hst, h1, h9, e⟩ := startCommand_cases c s <;> rw [e]
  · exact .raise .errState
  · exact .raise .errArg
  · exact .start (.inr ⟨c, h1, h9, hi⟩) hst

theorem arm_eventChange {i : Instr} (hi : isRxUnit i = true) (m : RxMode) (s : State) :
    EventChange s i (arm m s).ev := by
  obtain ⟨-, e⟩ | ⟨hidle, e⟩ := arm_cases m s <;> rw [e]
  · exact .raise .errState
  · exact .arm hi hidle

theorem execState_eventChange (i : Instr) (s : State) : EventChange s i (execState i s).ev := by
  cases i with
  | nop | crcInit | crcByte _ => exact .keep
  | crcPad4 =>
    rw [execState_crcPad4]
    exact .keep
  | sreset => exact .reset rfl
  | txStartRaw =>
    obtain ⟨-, e⟩ | ⟨hst, e⟩ := startRaw_cases s <;> rw [execState, e]
    · exact .raise .errState
    · exact .start (.inl rfl) hst
  | txByte b =>
    obtain ⟨-, e⟩ | ⟨-, -, e⟩ | ⟨-, -, e⟩ := appendByte_cases b s <;> rw [execState, e]
    · exact .raise .errState
    · exact .raise .txOvf
    · exact .keep
  | txSend =>
    obtain ⟨-, e⟩ | ⟨-, -, e⟩ | ⟨-, -, e⟩ := sendFrame_cases s <;> rw [execState, e]
    · exact .raise .errState
    · exact .raise .lwrap
    · exact .keep
  | txAbort =>
    obtain ⟨-, e⟩ | ⟨-, e⟩ | ⟨-, e⟩ := abortFrame_cases s <;> rw [execState, e]
    · exact .raise .errState
    · exact .keep
    · exact .keep
  | rxFrame | rxByte | rxAckFrame => exact arm_eventChange rfl _ s
  | txStartCmd c => exact startCommand_eventChange (.inl rfl) s
  | _ => exact startCommand_eventChange (.inr rfl) s

/-- An instruction raises at most one event bit. -/
theorem EventChange.eq_of_raised {s : State} {i : Instr} {e : Events} (h : EventChange s i e) {b c : EventBit}
    (hb : s.ev.get b = false) (hb' : e.get b = true) (hc : s.ev.get c = false) (hc' : e.get c = true) : b = c := by
  cases h with
  | keep => cases hb.symm.trans hb'
  | raise d => exact (Events.eq_of_put_raised hb hb').trans (Events.eq_of_put_raised hc hc').symm
  | start hi hst => cases hb.symm.trans (Events.get_of_put_false hb')
  | reset hi => cases (Events.none_get b).symm.trans hb'
  | arm hi hidle => cases hb.symm.trans (Events.get_of_put_false (Events.get_of_put_false hb'))

/-- Settles O52: the write is an instruction, or raises ERR_OPC. -/
theorem commandRaisesAtMostOneError : Obligations.CommandRaisesAtMostOneError := by
  intro w s
  refine ⟨_, writeCmd_eq w s, fun b _ c _ hb hb' hc hc' => ?_⟩
  cases hw : decodeCmd w with
  | ok i =>
    rw [hw] at hb' hc'
    exact (execState_eventChange i s).eq_of_raised hb hb' hc hc'
  | error e =>
    rw [hw] at hb' hc'
    exact (Events.eq_of_put_raised hb hb').trans (Events.eq_of_put_raised hc hc').symm

/-- An event bit that an instruction clears is cleared by a start, an arm or `SRESET` (R273). -/
theorem EventChange.of_cleared {s : State} {i : Instr} {e : Events} (h : EventChange s i e) {b : EventBit}
    (hb : s.ev.get b = true) (hb' : e.get b = false) :
    i = .sreset ∨ (b = .txDone ∧ s.txState ≠ .sending ∧ Starts i) ∨
      ((b = .rxDone ∨ b = .rxTimeout) ∧ s.rxState = .idle ∧ isRxUnit i = true) := by
  cases h with
  | keep => cases hb.symm.trans hb'
  | raise d => cases (Events.get_put_true hb).symm.trans hb'
  | start hi hst => exact .inr (.inl ⟨Events.eq_of_put_false hb hb', hst, hi⟩)
  | reset hi => exact .inl hi
  | arm hi hidle =>
    refine .inr (.inr ⟨?_, hidle, hi⟩)
    cases hd : (s.ev.put .rxDone false).get b with
    | false => exact .inl (Events.eq_of_put_false hb hd)
    | true => exact .inr (Events.eq_of_put_false hd hb')

/-! The ports set event bits and clear none. -/

section Ports

variable {s : State} {b : EventBit} (h : s.ev.get b = true)
include h

theorem emitByte_keeps_event (x : Byte) : (emitByte x s).ev.get b = true := by
  unfold emitByte
  split
  · exact Events.get_put_true h
  · exact h

theorem rxArrive_keeps_event (x : Byte) : (rxArrive x s).ev.get b = true := by
  obtain ⟨-, e⟩ | ⟨-, -, e⟩ | ⟨-, -, e⟩ | ⟨-, -, -, e⟩ | ⟨-, e⟩ := rxArrive_cases x s <;> rw [e]
  · exact Events.get_put_true h
  · obtain ⟨-, e⟩ | ⟨-, e⟩ := takeLength_cases x s <;> rw [e]
    · exact Events.get_put_true h
    · exact h
  · exact Events.get_put_true h
  · exact h
  · obtain ⟨-, e⟩ | ⟨-, e⟩ := takeBody_cases x s <;> rw [e]
    · exact Events.get_put_true h
    · exact h

theorem tick_keeps_event : (tick s).ev.get b = true := by
  obtain ⟨-, e⟩ | ⟨-, -, -, e⟩ | ⟨-, -, -, e⟩ := tick_cases s <;> rw [e]
  · exact h
  · exact Events.get_put_true h
  · exact h

end Ports

/-- What R273 lists as clearing the event bit `b` of the state `s`, by the agent's step that does so. -/
def ClearingCause (s : State) (e : Event) (b : EventBit) : Prop :=
  e = .rstN false ∨
  (∃ l v, e = .host (.write l .word v) ∧ l.offset? = some 0x004 ∧ v.getLsbD b.position = true) ∨
  (∃ l, e = .host (.write l .word 0x0000005A#32) ∧ l.offset? = some 0x000) ∨
  (b = .txDone ∧ s.txState ≠ .sending ∧
    ((∃ l, e = .host (.write l .word 0x00000011#32) ∧ l.offset? = some 0x000) ∨
      ∃ c : Byte, 1 ≤ c.toNat ∧ c.toNat ≤ 9 ∧
        (e = .host (.wire c) ∨
          ∃ l, e = .host (.write l .word (0x0000#16 ++ (c ++ 0x10#8))) ∧ l.offset? = some 0x000))) ∨
  ((b = .rxDone ∨ b = .rxTimeout) ∧ s.rxState = .idle ∧
    ∃ l w, w ∈ [0x00000020#32, 0x00000021#32, 0x00000022#32] ∧ e = .host (.write l .word w) ∧
      l.offset? = some 0x000)

/-- A command that clears an event bit is one of R273's causes. -/
theorem clearingCause_command {s : State} {b : EventBit} {l : Location} {w : Word} {i : Instr}
    (hl : l.offset? = some 0x000) (hw : decodeCmd w = .ok i) (hb : s.ev.get b = true)
    (hb' : (execState i s).ev.get b = false) : ClearingCause s (.host (.write l .word w)) b := by
  have hword := encodeWord_of_decodeCmd hw
  obtain rfl | ⟨rfl, hst, rfl | ⟨c, h1, h9, rfl | hwire⟩⟩ | ⟨hbit, hidle, harm⟩ :=
    (execState_eventChange i s).of_cleared hb hb'
  · exact .inr (.inr (.inl ⟨l, by rw [← hword]; rfl, hl⟩))
  · exact .inr (.inr (.inr (.inl ⟨rfl, hst, .inl ⟨l, by rw [← hword]; rfl, hl⟩⟩)))
  · exact .inr (.inr (.inr (.inl ⟨rfl, hst, .inr ⟨c, h1, h9, .inr ⟨l, by rw [← hword]; rfl, hl⟩⟩⟩)))
  · exact absurd hwire (not_wire_of_decodeCmd hw)
  · refine .inr (.inr (.inr (.inr ⟨hbit, hidle, l, w, ?_, rfl, hl⟩)))
    rw [← hword]
    cases i with
    | rxFrame | rxByte | rxAckFrame => decide
    | _ => cases harm

/-- A wire byte that clears an event bit starts a command. -/
theorem clearingCause_wire {s : State} {b : EventBit} {c : Byte} (hb : s.ev.get b = true)
    (hb' : (startCommand c s).ev.get b = false) : ClearingCause s (.host (.wire c)) b := by
  obtain h | ⟨rfl, hst, h | ⟨c', h1, h9, h | h⟩⟩ | ⟨-, -, h⟩ :=
    (execState_eventChange (.txStartCmd c) s).of_cleared hb hb'
  case inr.inl.inr.inl =>
    obtain rfl := Instr.txStartCmd.inj h
    exact .inr (.inr (.inr (.inl ⟨rfl, hst, .inr ⟨c, h1, h9, .inl rfl⟩⟩)))
  all_goals cases h

theorem clearingCause_host {s t : State} {a : HostAccess} {b : EventBit} (hr : s.rstN = true)
    (ha : hostAccess a s = .next t) (hb : s.ev.get b = true) (hb' : t.ev.get b = false) :
    ClearingCause s (.host a) b := by
  have hanswer := hostAnswer_hostAccess a hr
  rw [ha] at hanswer
  cases hanswer with
  | wire c => exact clearingCause_wire (s := respond .written s) hb hb'
  | command hl hv => exact clearingCause_command (s := respond .written s) hl hv hb hb'
  | undecodable hl hv => cases (Events.get_put_true hb).symm.trans hb'
  | read hl hreg | readBad hl hreg | writeBad hl hreg => cases hb.symm.trans hb'
  | @write l r v hl hreg hcmd =>
    by_cases hs : r = .status
    · subst hs
      refine .inr (.inl ⟨l, v, rfl, hl, ?_⟩)
      change (s.ev.clear (Events.ofWord v)).get b = false at hb'
      rw [Events.clear_get, hb, Events.ofWord_get] at hb'
      simpa using hb'
    · have hev : (regWrite (respond .written s) r v).ev = s.ev := by
        cases r with
        | status => exact absurd rfl hs
        | _ => rfl
      rw [hev] at hb'
      cases hb.symm.trans hb'

/-- Settles O53: the ports clear no event bit, and a host access clears one by a listed cause. -/
theorem eventBitsAreSticky : Obligations.EventBitsAreSticky := by
  intro s t e es b hr hp hstep hb hb'
  replace hstep : act e { s with pending := es } = .next t := (step_cons hp).symm.trans hstep
  cases e with
  | host a => exact clearingCause_host (s := { s with pending := es }) hr hstep hb hb'
  | rstN level =>
    cases level with
    | false => exact .inl rfl
    | true =>
      obtain rfl := Host.Outcome.next.inj ((congrArg Host.Outcome.next (if_pos hr)).symm.trans hstep)
      cases hb.symm.trans hb'
  | rxArrive x =>
    obtain rfl := Host.Outcome.next.inj ((act_rxArrive x (by exact hr)).symm.trans hstep)
    cases (rxArrive_keeps_event (s := { s with pending := es }) hb x).symm.trans hb'
  | tick =>
    obtain rfl := Host.Outcome.next.inj ((act_tick (by exact hr)).symm.trans hstep)
    cases (tick_keeps_event (s := { s with pending := es }) hb).symm.trans hb'
  | txReady =>
    rw [act_txReady (by exact hr)] at hstep
    obtain ⟨-, e⟩ | ⟨-, -, e⟩ | ⟨-, _, e⟩ := txAccept_cases { s with pending := es }
    · obtain rfl := Host.Outcome.next.inj (e.symm.trans hstep)
      cases hb.symm.trans hb'
    · cases e.symm.trans hstep
    · obtain rfl := Host.Outcome.next.inj (e.symm.trans hstep)
      cases (emitByte_keeps_event (s := { s with pending := es }) hb _).symm.trans hb'

end Sys2Proof.Machine
end

section
/-! PROOF. The write to `STATUS`, and the steps of one clock cycle in the hardware's order (43_control.md R222;
60_exceptions.md R275). -/

namespace Sys2Proof.Machine

theorem Events.ext_get {e e' : Events} (h : ∀ b, e.get b = e'.get b) : e = e' := by
  cases e with | mk =>
  cases e' with | mk =>
  congr 1
  exacts [h .txDone, h .rxDone, h .rxTimeout, h .rxDrop, h .txOvf, h .lwrap, h .errOpc, h .errState, h .errArg]

/-- `STATUS` after a W1C write reads the old value without the event bits the write names (R222). -/
theorem statusWord_acknowledge (s : State) (v : Word) :
    statusWord (acknowledge v s) = statusWord s &&& ~~~(v &&& eventMask) := by
  refine BitVec.eq_of_getLsbD_eq fun i hi => ?_
  rw [BitVec.getLsbD_and, BitVec.getLsbD_not, BitVec.getLsbD_and, decide_eq_true hi, Bool.true_and]
  by_cases hpos : ∃ b : EventBit, i = b.position
  · have hmask := (eventMask_getLsbD_iff i).mpr hpos
    obtain ⟨b, rfl⟩ := hpos
    rw [hmask, Bool.and_true, statusWord_getLsbD_position, statusWord_getLsbD_position, acknowledge_ev,
      Events.clear_get, Events.ofWord_get]
  · have hmask : eventMask.getLsbD i = false :=
      Bool.not_eq_true _ ▸ fun h => hpos ((eventMask_getLsbD_iff i).mp h)
    have hother : ∀ b : EventBit, i ≠ b.position := fun b h => hpos ⟨b, h⟩
    rw [hmask, Bool.and_false, Bool.not_false, Bool.and_true, statusWord_getLsbD, statusWord_getLsbD,
      Events.toWord_getLsbD_other _ hother, Events.toWord_getLsbD_other _ hother]
    rfl

/-- The level step of a cycle with `rst_n` high changes nothing while it is high. -/
theorem runSteps_rstN_high (es : List Event) {s : State} (hr : s.rstN = true) :
    runSteps (.rstN true :: es) s = runSteps es s := by
  rw [runSteps_cons, act_rstN, driveReset, if_pos rfl, if_pos hr, andThen_next]

/-- A cycle that begins with a W1C write goes on from the acknowledged state. -/
theorem runSteps_clearing (v : Word) (es : List Event) {s : State} (hr : s.rstN = true) :
    runSteps (.rstN true :: .host (.write (.offset 0x004) .word v) :: es) s =
      runSteps es (acknowledge v (respond .written s)) := by
  have hwrite : act (writeLine .status v) s = .next (acknowledge v (respond .written s)) :=
    act_writeLine v hr (by decide) rfl
  rw [runSteps_rstN_high _ hr, runSteps_cons]
  exact congrArg (andThen · _) hwrite

theorem runSteps_rxArrive (b : Byte) (es : List Event) {s : State} (hr : s.rstN = true) :
    runSteps (.rxArrive b :: es) s = runSteps es (rxArrive b s) := by
  rw [runSteps_cons, act_rxArrive b hr, andThen_next]

theorem runSteps_tick (es : List Event) {s : State} (hr : s.rstN = true) :
    runSteps (.tick :: es) s = runSteps es (tick s) := by
  rw [runSteps_cons, act_tick hr, andThen_next]

/-- The acceptance of the last byte completes the frame (R167). -/
theorem runSteps_txReady_last (es : List Event) {s : State} (hr : s.rstN = true) (hst : s.txState = .sending)
    (hlast : s.txPos + 1 = s.txSeq.length) : runSteps (.txReady :: es) s = runSteps es (emitted s) := by
  have hpos : s.txPos < s.txSeq.length := by omega
  rw [runSteps_cons, act_txReady_sending hr hst hpos, andThen_next, emitByte_last hpos hlast]

/-- Settles O8: the write is an acknowledgment; an event of the same cycle is raised after it. -/
theorem statusWriteClearsTheNamedEvents : Obligations.StatusWriteClearsTheNamedEvents := by
  intro s v hr
  refine ⟨fun es hp => ?write, fun b hidle => ?drop, fun b hc => ?done, fun hst hlast => ?sent,
    fun hrx htx hctr => ?timeout⟩
  case write =>
    have hstep : step s = .next (acknowledge v (respond .written { s with pending := es })) :=
      step_write (r := .status) hr hp (by decide) rfl
    have hget (b : EventBit) : (s.ev.clear (Events.ofWord v)).get b = (s.ev.get b && !v.getLsbD b.position) := by
      rw [Events.clear_get, Events.ofWord_get]
    refine ⟨_, hstep, rfl, hget, statusWord_acknowledge _ v, fun hv => Events.ext_get fun b => ?_,
      fun hv => Events.ext_get fun b => ?_⟩
    · refine (hget b).trans ?_
      rw [hv, BitVec.ofNat_eq_ofNat, BitVec.getLsbD_zero, Bool.not_false, Bool.and_true]
    · refine (hget b).trans ?_
      have hmask := (eventMask_getLsbD_iff b.position).mpr ⟨b, rfl⟩
      rw [hv, Events.none_get]
      change (s.ev.get b && !eventMask.getLsbD b.position) = false
      rw [hmask, Bool.not_true, Bool.and_false]
  case drop =>
    refine ⟨_, (runSteps_clearing v _ hr).trans (runSteps_rxArrive b [] (by exact hr)), ?_⟩
    rw [rxArrive_idle b (by exact hidle)]
    rfl
  case done =>
    refine ⟨_, (runSteps_clearing v _ hr).trans (runSteps_rxArrive b [] (by exact hr)), ?_⟩
    rw [(rxArrive_completes (b := b) (by exact hc)).2]
    rfl
  case sent =>
    exact ⟨_, (runSteps_clearing v _ hr).trans (runSteps_txReady_last [] (by exact hr) hst hlast), rfl⟩
  case timeout =>
    refine ⟨_, (runSteps_clearing v _ hr).trans (runSteps_tick [] (by exact hr)), ?_⟩
    rw [tick_expires (by exact hrx) (by exact htx) (by exact hctr)]
    rfl

/-- A cycle in which a byte arrives and a tick comes: the byte first (R275). -/
theorem runSteps_byteAndTick (b : Byte) {s : State} (hr : s.rstN = true) :
    runSteps (Cycle.mk true none false (some b) true).events s = .next (tick (rxArrive b s)) :=
  (runSteps_rstN_high _ hr).trans
    ((runSteps_rxArrive b _ hr).trans (runSteps_tick [] ((rstN_of_outside (rxArrive_keeps s b).2).trans hr)))

/-- A cycle in which the host arms a receive and a byte arrives: the arm first (R275). -/
theorem runSteps_armAndByte {i : Instr} {m : RxMode} (h : (i, m) ∈ armTable) (b : Byte) {s : State}
    (hr : s.rstN = true) (hidle : s.rxState = .idle) :
    runSteps (Cycle.mk true (some (.write (.offset 0x000) .word (encodeWord i))) false (some b) false).events s =
      .next (rxArrive b ((respond .written s).armed m)) := by
  have hissue : issue i = .host (.write (.offset 0x000) .word (encodeWord i)) := by fin_cases h <;> rfl
  have harm := act_arm h hr hidle
  rw [hissue] at harm
  refine (runSteps_rstN_high _ hr).trans ((runSteps_cons _ _ _).trans ?_)
  rw [harm, andThen_next]
  exact runSteps_rxArrive b [] hr

/-- Settles O54: the byte of a cycle comes before its tick and after its access, the last acceptance before the tick. -/
theorem sameCycleStepsFollowTheHardwareOrder : Obligations.SameCycleStepsFollowTheHardwareOrder := by
  refine ⟨fun a b => rfl, fun s b hr => ⟨fun hc hctr hto => ?completing, fun hst hm hb htx => ?length,
    fun hst hlast hrx => ?lastByte, fun hidle w hw => ?arm⟩⟩
  case completing =>
    have hrun := runSteps_byteAndTick b hr
    obtain ⟨hidle, hev⟩ := rxArrive_completes hc
    rw [tick_ignored (.inl hidle)] at hrun
    refine ⟨_, hrun, hidle, ?_, ?_⟩
    · rw [hev]
      rfl
    · rw [hev]
      exact hto
  case length =>
    have hrun := runSteps_byteAndTick b hr
    rw [rxArrive_frame_nonzero hst hm hb] at hrun
    refine ⟨_, hrun, ?_⟩
    by_cases htmo : s.rxTmo = 0
    · rw [tick_expires (by exact nofun) (by exact htx) (by exact htmo)]
      exact ⟨rfl, fun h => absurd htmo h, fun _ => ⟨rfl, rfl⟩⟩
    · rw [tick_counts (by exact nofun) (by exact htx) (by exact htmo)]
      exact ⟨rfl, fun _ => ⟨rfl, rfl⟩, fun h => absurd h htmo⟩
  case lastByte =>
    have hrun : runSteps (Cycle.mk true none true none true).events s = .next (tick (emitted s)) :=
      (runSteps_rstN_high _ hr).trans ((runSteps_txReady_last _ hr hst hlast).trans (runSteps_tick [] (by exact hr)))
    refine ⟨_, hrun, ?_⟩
    by_cases hctr : s.rxCtr = 0
    · rw [tick_expires (s := emitted s) hrx rfl hctr]
      exact ⟨rfl, rfl, fun h => absurd hctr h, fun _ => ⟨rfl, rfl⟩⟩
    · rw [tick_counts (s := emitted s) hrx rfl hctr]
      exact ⟨rfl, rfl, fun _ => ⟨rfl, rfl⟩, fun h => absurd h hctr⟩
  case arm =>
    have hrun {i : Instr} {m : RxMode} (h : (i, m) ∈ armTable) := runSteps_armAndByte h b hr hidle
    simp only [List.mem_cons, List.not_mem_nil, or_false] at hw
    obtain rfl | rfl | rfl := hw
    · refine ⟨_, hrun (i := .rxFrame) (m := .frame) (by decide), ?_⟩
      have hnot : ¬ (0x20#32 = 0x21#32 ∨ 0x20#32 = 0x22#32 ∧ b ≠ 0x01) := by
        rintro (h | ⟨h, -⟩) <;> exact absurd h (by decide)
      by_cases hb : b = 0
      · subst hb
        rw [rxArrive_frame_zero rfl rfl]
        exact ⟨rfl, fun _ => ⟨rfl, fun _ => ⟨rfl, rfl⟩, fun h => absurd rfl h⟩, fun h => absurd h (by decide),
          fun h => absurd h hnot⟩
      · rw [rxArrive_frame_nonzero rfl rfl hb]
        exact ⟨rfl, fun _ => ⟨rfl, fun h => absurd h hb, fun _ => rfl⟩, fun h => absurd h (by decide),
          fun h => absurd h hnot⟩
    · refine ⟨_, hrun (i := .rxByte) (m := .byte) (by decide), ?_⟩
      rw [rxArrive_byte b rfl rfl]
      exact ⟨rfl, fun h => absurd h (by decide), fun h => absurd h (by decide),
        fun _ => ⟨rfl, rfl, rfl, Memory.read_write_same _ _ _⟩⟩
    · refine ⟨_, hrun (i := .rxAckFrame) (m := .ackFrame) (by decide), ?_⟩
      by_cases hb : b = 0x01
      · subst hb
        rw [rxArrive_ackFrame_ack rfl rfl]
        refine ⟨rfl, fun h => absurd h (by decide), fun _ _ => ⟨rfl, rfl, rfl⟩, ?_⟩
        rintro (h | ⟨-, h⟩)
        · exact absurd h (by decide)
        · exact absurd rfl h
      · rw [rxArrive_ackFrame_other rfl rfl hb]
        exact ⟨rfl, fun h => absurd h (by decide), fun _ h => absurd h hb,
          fun _ => ⟨rfl, rfl, rfl, Memory.read_write_same _ _ _⟩⟩

end Sys2Proof.Machine
end

section
/-! PROOF. What ends a receive (42_rx_deserializer.md R201): the view of the RX unit between an arm and its end, kept by
every step that leaves the receive to the unit. -/

namespace Sys2Proof.Machine

/-- No agent's step but the platform's takes `rst_n` low. -/
theorem act_rstN_high {e : Event} {s t : State} (hr : s.rstN = true) (he : e ≠ .rstN false) (ha : act e s = .next t) :
    t.rstN = true := by
  cases e with
  | host a =>
    have hanswer := hostAnswer_hostAccess a hr
    rw [← act_host, ha] at hanswer
    cases hanswer with
    | wire b => exact (rstN_of_outside (startCommand_keeps _ b).2).trans hr
    | command hl hv => exact (rstN_of_outside (execState_outside _ _)).trans hr
    | write hl hreg hcmd => exact (rstN_of_outside (regWrite_outside _ _ _)).trans hr
    | _ => exact hr
  | txReady =>
    rw [act_txReady hr] at ha
    obtain ⟨-, e⟩ | ⟨-, -, e⟩ | ⟨-, _, e⟩ := txAccept_cases s
    · exact Host.Outcome.next.inj (e.symm.trans ha) ▸ hr
    · cases e.symm.trans ha
    · exact Host.Outcome.next.inj (e.symm.trans ha) ▸ (emitByte_keeps s _).2.trans hr
  | rxArrive b =>
    rw [← Host.Outcome.next.inj ((act_rxArrive b hr).symm.trans ha)]
    exact (rstN_of_outside (rxArrive_keeps s b).2).trans hr
  | tick =>
    rw [← Host.Outcome.next.inj ((act_tick hr).symm.trans ha)]
    exact (rstN_of_outside (tick_keeps s).2).trans hr
  | rstN level =>
    cases level with
    | false => exact absurd rfl he
    | true => exact Host.Outcome.next.inj ((congrArg Host.Outcome.next (if_pos hr)).symm.trans ha) ▸ hr

theorem txAccept_rxView {s t : State} (ha : txAccept s = .next t) : t.rxView = s.rxView := by
  obtain ⟨-, e⟩ | ⟨-, -, e⟩ | ⟨-, _, e⟩ := txAccept_cases s
  · rw [← Host.Outcome.next.inj (e.symm.trans ha)]
  · cases e.symm.trans ha
  · rw [← Host.Outcome.next.inj (e.symm.trans ha), (emitByte_keeps s _).1]

/-! The steps of `keepsReceive` that are no port's of the RX unit. -/

theorem keepsReceive_command {l : Location} {v : Word} {i : Instr} (hl : l.offset? = some 0x000)
    (hv : decodeCmd v = .ok i) (hk : keepsReceive (.host (.write l .word v)) = true) :
    isRxUnit i = false ∧ i ≠ .sreset := by
  have hreg : accessedReg 0x000 .word = some .cmd := rfl
  simp only [keepsReceive, hl, Option.bind_some, hreg, hv] at hk
  cases i with
  | rxFrame | rxByte | rxAckFrame | sreset => cases hk
  | _ => exact ⟨rfl, nofun⟩

theorem keepsReceive_status {l : Location} {v : Word} (hl : l.offset? = some 0x004)
    (hk : keepsReceive (.host (.write l .word v)) = true) : v.getLsbD 9 = false ∧ v.getLsbD 10 = false := by
  have hreg : accessedReg 0x004 .word = some .status := rfl
  simpa [keepsReceive, hl, hreg] using hk

/-- A W1C write that names neither RX_DONE nor RX_TIMEOUT keeps the outcome. -/
theorem acknowledge_rxView {v : Word} (h9 : v.getLsbD 9 = false) (h10 : v.getLsbD 10 = false) (s : State) :
    (acknowledge v s).rxView = s.rxView := by
  have hdone : (s.ev.rxDone && !v.getLsbD 9) = s.ev.rxDone := by rw [h9, Bool.not_false, Bool.and_true]
  have htimeout : (s.ev.rxTimeout && !v.getLsbD 10) = s.ev.rxTimeout := by rw [h10, Bool.not_false, Bool.and_true]
  simp only [State.rxView, acknowledge, Events.clear, Events.ofWord, hdone, htimeout]

/-- Such a step of the host leaves the RX unit as it is. -/
theorem hostAccess_rxView {a : HostAccess} {s t : State} (hr : s.rstN = true) (hk : keepsReceive (.host a) = true)
    (ha : hostAccess a s = .next t) : t.rxView = s.rxView := by
  have hanswer := hostAnswer_hostAccess a hr
  rw [ha] at hanswer
  cases hanswer with
  | wire b => exact (startCommand_keeps _ b).1
  | read hl hreg | readBad hl hreg | writeBad hl hreg | undecodable hl hv => rfl
  | command hl hv =>
    obtain ⟨hi, hs⟩ := keepsReceive_command hl hv hk
    exact execState_rxView _ hi hs
  | @write l r v hl hreg hcmd =>
    by_cases hs : r = .status
    · subst hs
      obtain ⟨h9, h10⟩ := keepsReceive_status hl hk
      exact acknowledge_rxView h9 h10 (respond .written s)
    · exact (regWrite_views (respond .written s) hs v).2

/-- A step of `keepsReceive` is answered: its accesses are in the window. -/
theorem act_next_of_keepsReceive {e : Event} {s : State} (h : Inv s) (hk : keepsReceive e = true) :
    ∃ t, act e s = .next t := by
  obtain hnext | ⟨l, hl, -, size, v, rfl | rfl⟩ := act_next_or_outside h e
  · exact hnext
  · simp [keepsReceive, hl] at hk
  · simp [keepsReceive, hl] at hk

/-- Mode and ACK_OK while a receive armed in a mode waits (R191 to R193, R196). -/
def waitingModes : RxMode → List (RxMode × Bool)
  | .frame => [(.frame, false)]
  | .byte => [(.byte, false)]
  | .ackFrame => [(.ackFrame, false), (.frame, true)]

/-- RX_DONE, RX_TIMEOUT, ACK_OK and RX_MODE once a receive armed in a mode has ended: R201's rows. -/
def outcomeRows : RxMode → List (Bool × Bool × Bool × RxMode)
  | .frame => [(true, false, false, .frame), (false, true, false, .frame)]
  | .byte => [(true, false, true, .byte), (true, false, false, .byte), (false, true, false, .byte)]
  | .ackFrame =>
    [(true, false, true, .frame), (true, false, false, .ackFrame), (false, true, false, .ackFrame),
      (false, true, true, .frame)]

/-- What a receive armed in the mode `m` looks like from the arm on, while no other receive is armed and its outcome
is not acknowledged. -/
structure ReceiveOf (m : RxMode) (v : RxView) : Prop where
  waiting : v.state ≠ .idle → (v.mode, v.ackOk) ∈ waitingModes m
  finished : v.state = .idle → (v.done, v.timeout, v.ackOk, v.mode) ∈ outcomeRows m
  counted : v.state = .idle → v.done = true → v.cnt = v.len.toNat
  single : v.state = .idle → v.done = true → v.mode ≠ .frame →
    v.cnt = 1 ∧ ∃ b, v.buf.read 0 = some b ∧ (v.ackOk = true ↔ b = 0x01)

theorem receiveOf_armed (m : RxMode) (s : State) : ReceiveOf m (s.armed m).rxView where
  waiting := fun _ => by
    show (m, false) ∈ waitingModes m
    cases m <;> decide
  finished := nofun
  counted := nofun
  single := nofun

/-! The rows that the ends of a wait lead to. -/

theorem mem_waitingModes {m k : RxMode} {a : Bool} :
    (k, a) ∈ waitingModes m ↔ (k = m ∧ a = false) ∨ (m = .ackFrame ∧ k = .frame ∧ a = true) := by
  cases m <;> simp [waitingModes]

theorem row_of_body {m : RxMode} {a : Bool} (h : (.frame, a) ∈ waitingModes m) :
    (true, false, a, .frame) ∈ outcomeRows m := by
  obtain ⟨rfl, rfl⟩ | ⟨rfl, -, rfl⟩ := mem_waitingModes.mp h <;> decide

theorem row_of_timeout {m k : RxMode} {a : Bool} (h : (k, a) ∈ waitingModes m) :
    (false, true, a, k) ∈ outcomeRows m := by
  obtain ⟨rfl, rfl⟩ | ⟨rfl, rfl, rfl⟩ := mem_waitingModes.mp h
  · cases k <;> decide
  · decide

theorem row_of_byte {m : RxMode} {a : Bool} (h : (.byte, a) ∈ waitingModes m) (b : Bool) :
    (true, false, b, .byte) ∈ outcomeRows m := by
  obtain ⟨rfl, -⟩ | ⟨-, hk, -⟩ := mem_waitingModes.mp h
  · cases b <;> decide
  · cases hk

theorem row_of_notAck {m : RxMode} {a : Bool} (h : (.ackFrame, a) ∈ waitingModes m) :
    (true, false, false, .ackFrame) ∈ outcomeRows m := by
  obtain ⟨rfl, -⟩ | ⟨-, hk, -⟩ := mem_waitingModes.mp h
  · decide
  · cases hk

theorem waitingModes_acked {m : RxMode} {a : Bool} (h : (.ackFrame, a) ∈ waitingModes m) :
    (.frame, true) ∈ waitingModes m := by
  obtain ⟨rfl, -⟩ | ⟨-, hk, -⟩ := mem_waitingModes.mp h
  · decide
  · cases hk

section Ports

variable {m : RxMode} {s : State} (h : RxInv s) (hm : ReceiveOf m s.rxView)
include h hm

/-- RX_DONE in FRAME mode, with the whole body counted, ends the receive in a row with a body. -/
theorem receiveOf_body (hidle : s.rxState ≠ .idle) (hmode : s.rxMode = .frame) {buf : Memory} {n : Nat} {len : Byte}
    (hn : n = len.toNat) :
    ReceiveOf m (raise .rxDone { s with rxBuf := buf, rxCnt := n, rxLen := len, rxState := .idle }).rxView where
  waiting := fun hs => absurd rfl hs
  finished := fun _ => by
    have hw : (s.rxMode, s.ackOk) ∈ waitingModes m := hm.waiting hidle
    obtain ⟨-, ht⟩ := h.noOutcome hidle
    show (true, s.ev.rxTimeout, s.ackOk, s.rxMode) ∈ outcomeRows m
    rw [ht, hmode]
    exact row_of_body (hmode ▸ hw)
  counted := fun _ _ => hn
  single := fun _ _ hs => absurd hmode hs

theorem receiveOf_takeSingle (b : Byte) (hidle : s.rxState ≠ .idle)
    (hmode : s.rxMode = .byte ∨ s.rxMode = .ackFrame ∧ b ≠ 0x01) : ReceiveOf m (takeSingle b s).rxView where
  waiting := fun hs => absurd rfl hs
  finished := fun _ => by
    have hw : (s.rxMode, s.ackOk) ∈ waitingModes m := hm.waiting hidle
    obtain ⟨-, ht⟩ := h.noOutcome hidle
    show (true, s.ev.rxTimeout, isAck b, s.rxMode) ∈ outcomeRows m
    rw [ht]
    obtain hbyte | ⟨hack, hb⟩ := hmode
    · rw [hbyte] at hw ⊢
      exact row_of_byte hw _
    · rw [hack] at hw ⊢
      rw [isAck_eq_decide, decide_eq_false hb]
      exact row_of_notAck hw
  counted := fun _ _ => rfl
  single := fun _ _ _ => ⟨rfl, b, Memory.read_write_same _ _ _, by
    show isAck b = true ↔ _
    rw [isAck_eq_decide, decide_eq_true_iff]⟩

theorem receiveOf_rxArrive (b : Byte) : ReceiveOf m (rxArrive b s).rxView := by
  obtain ⟨-, e⟩ | ⟨hst, hmode, e⟩ | ⟨hst, hmode, e⟩ | ⟨hst, hmode, -, e⟩ | ⟨hst, e⟩ := rxArrive_cases b s <;> rw [e]
  case inl => exact hm
  all_goals have hidle : s.rxState ≠ .idle := by rw [hst]; decide
  · obtain ⟨hcnt, -⟩ := h.waitFirst hst
    obtain ⟨rfl, e⟩ | ⟨-, e⟩ := takeLength_cases b s <;> rw [e]
    · exact receiveOf_body h hm hidle hmode (buf := s.rxBuf) hcnt
    · exact ⟨fun _ => hm.waiting hidle, nofun, nofun, nofun⟩
  · exact receiveOf_takeSingle h hm b hidle hmode
  · refine ⟨fun _ => waitingModes_acked (a := s.ackOk) ?_, fun hs => absurd hs hidle, fun hs => absurd hs hidle,
      fun hs => absurd hs hidle⟩
    have hw : (s.rxMode, s.ackOk) ∈ waitingModes m := hm.waiting hidle
    rwa [hmode] at hw
  · obtain ⟨hmode, -⟩ := h.waitBody hst
    obtain ⟨hlast, e⟩ | ⟨-, e⟩ := takeBody_cases b s <;> rw [e]
    · exact receiveOf_body h hm hidle hmode (len := s.rxLen) hlast
    · exact ⟨fun _ => hm.waiting hidle, fun hs => absurd hs hidle, fun hs => absurd hs hidle, fun hs => absurd hs hidle⟩

theorem receiveOf_tick : ReceiveOf m (tick s).rxView := by
  obtain ⟨-, e⟩ | ⟨hidle, -, -, e⟩ | ⟨-, -, -, e⟩ := tick_cases s <;> rw [e]
  case inl | inr.inr => exact hm
  obtain ⟨hd, -⟩ := h.noOutcome hidle
  have hnot : s.ev.rxDone ≠ true := by rw [hd]; decide
  refine ⟨fun hs => absurd rfl hs, fun _ => ?_, fun _ hs => absurd hs hnot, fun _ hs => absurd hs hnot⟩
  show (s.ev.rxDone, true, s.ackOk, s.rxMode) ∈ outcomeRows m
  rw [hd]
  exact row_of_timeout (hm.waiting hidle)

end Ports

/-- A step of `keepsReceive` leaves the receive as the arm and the RX unit made it. -/
theorem receiveOf_act {m : RxMode} {e : Event} {s t : State} (h : Inv s) (hr : s.rstN = true)
    (hk : keepsReceive e = true) (hm : ReceiveOf m s.rxView) (ha : act e s = .next t) : ReceiveOf m t.rxView := by
  cases e with
  | host a => rw [hostAccess_rxView hr hk ha]; exact hm
  | txReady =>
    rw [act_txReady hr] at ha
    rw [txAccept_rxView ha]
    exact hm
  | rxArrive b =>
    rw [← Host.Outcome.next.inj ((act_rxArrive b hr).symm.trans ha)]
    exact receiveOf_rxArrive h.rx hm b
  | tick =>
    rw [← Host.Outcome.next.inj ((act_tick hr).symm.trans ha)]
    exact receiveOf_tick h.rx hm
  | rstN level =>
    obtain rfl : level = true := hk
    rw [← Host.Outcome.next.inj ((congrArg Host.Outcome.next (if_pos hr)).symm.trans ha)]
    exact hm

/-- So do any number of them, and each is answered. -/
theorem receiveOf_runSteps {m : RxMode} {es : List Event} {s : State} (h : Inv s) (hr : s.rstN = true)
    (hk : ∀ e ∈ es, keepsReceive e = true) (hm : ReceiveOf m s.rxView) :
    ∃ t, runSteps es s = .next t ∧ ReceiveOf m t.rxView := by
  induction es generalizing s with
  | nil => exact ⟨s, rfl, hm⟩
  | cons e es ih =>
    rw [List.forall_mem_cons] at hk
    obtain ⟨u, hu⟩ := act_next_of_keepsReceive h hk.1
    have hne : e ≠ .rstN false := by
      rintro rfl
      exact absurd hk.1 (by decide)
    obtain ⟨t, hrun, ht⟩ := ih (act_inv h hu) (act_rstN_high hr hne hu) hk.2 (receiveOf_act h hr hk.1 hm hu)
    exact ⟨t, by rw [runSteps_cons, hu, andThen_next, hrun], ht⟩

/-- Each of the rows has a meaning in R201's table. -/
theorem rxOutcome_listed {m : RxMode} {t : State}
    (h : (t.ev.rxDone, t.ev.rxTimeout, t.ackOk, t.rxMode) ∈ outcomeRows m) : rxOutcome m t ≠ .unlisted := by
  unfold rxOutcome
  generalize t.ev.rxDone = d, t.ev.rxTimeout = o, t.ackOk = a, t.rxMode = k at h ⊢
  cases m <;> fin_cases h <;> exact nofun

/-- The rows of the three arms, one list. -/
theorem mem_table_of_row {i : Instr} {m : RxMode} {d o a : Bool} {k : RxMode} (him : (i, m) ∈ armTable)
    (h : (d, o, a, k) ∈ outcomeRows m) :
    (i, d, o, a, k) ∈ armTable.flatMap fun p => (outcomeRows p.2).map (p.1, ·) :=
  List.mem_flatMap.mpr ⟨(i, m), him, List.mem_map_of_mem h⟩

/-- Settles O49: the arm starts the receive, whose view stays `ReceiveOf` to the end of the run. -/
theorem everyFinishedReceiveHasAListedOutcome : Obligations.EveryFinishedReceiveHasAListedOutcome := by
  intro s i m es h hr hidle him hk
  obtain ⟨t, hrun, ht⟩ := receiveOf_runSteps (act_inv h (act_arm him hr hidle)) (by exact hr) hk
    (receiveOf_armed m (respond .written s))
  refine ⟨t, by rw [runSteps_cons, act_arm him hr hidle, andThen_next, hrun], fun hend => ?_⟩
  have hrow : (t.ev.rxDone, t.ev.rxTimeout, t.ackOk, t.rxMode) ∈ outcomeRows m := ht.finished hend
  exact ⟨mem_table_of_row him hrow, rxOutcome_listed hrow, ht.counted hend, ht.single hend⟩

end Sys2Proof.Machine
end

section
/-! PROOF. The deserializer against the source's `decode_length_prefixed` (42_rx_deserializer.md R202): runs of the
ports alone, in time and late. -/

namespace Sys2Proof.Machine

theorem arrivals_cons_rxArrive (b : Byte) (es : List Event) : arrivals (.rxArrive b :: es) = b :: arrivals es := rfl

/-! Late: the countdown runs out first. -/

/-- With no receive waiting the RX source and the tick source leave the RX unit as it is. -/
theorem runSteps_idle {es : List Event} {s : State} (hes : ∀ e ∈ es, e.isRxOrTick = true) (hr : s.rstN = true)
    (hidle : s.rxState = .idle) : ∃ t, runSteps es s = .next t ∧ t.rxView = s.rxView := by
  induction es generalizing s with
  | nil => exact ⟨s, rfl, rfl⟩
  | cons e es ih =>
    rw [List.forall_mem_cons] at hes
    cases e with
    | rxArrive b =>
      rw [runSteps_rxArrive b _ hr, rxArrive_idle b hidle]
      exact ih (s := raise .rxDrop s) hes.2 hr hidle
    | tick =>
      rw [runSteps_tick _ hr, tick_ignored (.inl hidle)]
      exact ih hes.2 hr hidle
    | _ => cases hes.1

/-- One tick more than the countdown allows, with fewer bytes than the body lacks, expires the wait for the body. -/
theorem runSteps_lateBody {es : List Event} {s : State} (hes : ∀ e ∈ es, e.isRxOrTick = true) (hr : s.rstN = true)
    (hst : s.rxState = .waitBody) (htx : s.txState = .idle) (hdone : s.ev.rxDone = false)
    (hfew : s.rxCnt + (arrivals es).length < s.rxLen.toNat) (hlate : tickCount es = s.rxCtr.toNat + 1) :
    ∃ t, runSteps es s = .next t ∧ t.rxState = .idle ∧ t.ev.rxTimeout = true ∧ t.ev.rxDone = false ∧
      t.rxLen = s.rxLen ∧ t.rxCnt < s.rxLen.toNat := by
  induction es generalizing s with
  | nil => cases hlate
  | cons e es ih =>
    rw [List.forall_mem_cons] at hes
    have hwait : s.rxState ≠ .idle := by rw [hst]; decide
    cases e with
    | rxArrive b =>
      rw [arrivals_cons_rxArrive, List.length_cons] at hfew
      rw [runSteps_rxArrive b _ hr, rxArrive_body b hst, takeBody_more (by omega)]
      exact ih (s := { s with rxBuf := s.rxBuf.write s.rxCnt b, rxCnt := s.rxCnt + 1 }) hes.2 hr hst htx hdone
        (by dsimp only; omega) hlate
    | tick =>
      rw [runSteps_tick _ hr]
      change tickCount es + 1 = _ at hlate
      by_cases hctr : s.rxCtr = 0
      · rw [tick_expires hwait htx hctr]
        obtain ⟨t, hrun, hview⟩ := runSteps_idle (s := expire s) hes.2 hr rfl
        refine ⟨t, hrun, congrArg RxView.state hview, congrArg RxView.timeout hview,
          (congrArg RxView.done hview).trans hdone, congrArg RxView.len hview, ?_⟩
        have hcnt : t.rxCnt = s.rxCnt := congrArg RxView.cnt hview
        rw [hcnt]
        exact lt_of_le_of_lt (Nat.le_add_right _ _) hfew
      · rw [tick_counts hwait htx hctr]
        have hsub := toNat_sub_one hctr
        exact ih (s := { s with rxCtr := s.rxCtr - 1 }) hes.2 hr hst htx hdone hfew (by dsimp only; omega)
    | _ => cases hes.1

/-- Settles O51: no length byte, or too few body bytes, before the countdown runs out. -/
theorem lateLengthOrBodyTimesOut : Obligations.LateLengthOrBodyTimesOut := by
  intro s hr hidle htx
  have harm : act (issue .rxFrame) s = .next ((respond .written s).armed .frame) :=
    act_arm (m := .frame) (by decide) hr hidle
  refine ⟨?length, fun k len es hk hes hfew hlate => ?body⟩
  case length =>
    have hexpires := (waitExpiresOnTheTickAfterItsDeadline ((respond .written s).armed .frame) hr nofun htx).2
    exact ⟨_, by rw [runSteps_cons, harm, andThen_next]; exact hexpires, rfl, rfl, rfl, rfl⟩
  case body =>
    have hlen : len ≠ 0 := by
      rintro rfl
      exact Nat.not_lt_zero _ hfew
    have hticks := runSteps_ticks k (s := (respond .written s).armed .frame) hr nofun htx hk
    rw [runSteps_cons, harm, andThen_next, runSteps_append, hticks, andThen_next, runSteps_rxArrive len _ (by exact hr),
      rxArrive_frame_nonzero rfl rfl hlen]
    exact runSteps_lateBody hes hr rfl htx rfl (lt_of_eq_of_lt (Nat.zero_add _) hfew) hlate

/-! In time: what the ports leave alone while a body comes in. -/

/-- What neither an acceptance, nor a tick, nor a byte that a receive waits for touches. -/
structure Undisturbed (s t : State) : Prop where
  rstN : t.rstN = s.rstN
  rxTmo : t.rxTmo = s.rxTmo
  rxDrop : t.ev.rxDrop = s.ev.rxDrop
  crcAcc : t.crcAcc = s.crcAcc
  crcCnt : t.crcCnt = s.crcCnt

theorem Undisturbed.refl (s : State) : Undisturbed s s := ⟨rfl, rfl, rfl, rfl, rfl⟩

theorem Undisturbed.trans {s t u : State} (h : Undisturbed s t) (h' : Undisturbed t u) : Undisturbed s u :=
  ⟨h'.rstN.trans h.rstN, h'.rxTmo.trans h.rxTmo, h'.rxDrop.trans h.rxDrop, h'.crcAcc.trans h.crcAcc,
    h'.crcCnt.trans h.crcCnt⟩

/-- The TX unit's state, its position and what its sink has accepted. -/
def State.txProgress (s : State) : TxState × Nat × List Byte := (s.txState, s.txPos, s.sink)

/-- How much a step counts against the deadline of the state it meets (R198). -/
def counted (e : Event) (s : State) : Nat := if e = .tick ∧ s.txState = .idle then 1 else 0

theorem countedTicks_cons {e : Event} {es : List Event} {s t : State} (ha : act e s = .next t) :
    countedTicks (e :: es) s = counted e s + countedTicks es t := by
  rw [countedTicks, ha]
  rfl

/-- An acceptance moves nothing of the receive. -/
theorem txAccept_undisturbed {s u : State} (ha : txAccept s = .next u) : Undisturbed s u ∧ u.rxCtr = s.rxCtr := by
  obtain ⟨-, e⟩ | ⟨-, -, e⟩ | ⟨-, _, e⟩ := txAccept_cases s
  · rw [← Host.Outcome.next.inj (e.symm.trans ha)]
    exact ⟨.refl s, rfl⟩
  · cases e.symm.trans ha
  · rw [← Host.Outcome.next.inj (e.symm.trans ha), emitByte]
    split <;> exact ⟨⟨rfl, rfl, rfl, rfl, rfl⟩, rfl⟩

/-- A tick that does not expire a wait moves nothing of the receive but its countdown, by what it counts. -/
theorem tick_quiet {s : State} (hctr : s.rxState = .idle ∨ counted .tick s ≤ s.rxCtr.toNat) :
    (tick s).rxView = s.rxView ∧ Undisturbed s (tick s) ∧ (tick s).txProgress = s.txProgress ∧
      (s.rxState = .idle ∨ counted .tick s + (tick s).rxCtr.toNat = s.rxCtr.toNat) := by
  obtain ⟨hnot, e⟩ | ⟨hrx, htx, hzero, -⟩ | ⟨-, htx, hc, e⟩ := tick_cases s
  · rw [e]
    refine ⟨rfl, .refl s, rfl, ?_⟩
    by_cases hrx : s.rxState = .idle
    · exact .inl hrx
    · have hheld : counted .tick s = 0 := if_neg fun hcount => hnot ⟨hrx, hcount.2⟩
      exact .inr (by rw [hheld, Nat.zero_add])
  · have hone : counted .tick s = 1 := if_pos ⟨rfl, htx⟩
    rw [hone, hzero] at hctr
    exact absurd (hctr.resolve_left hrx) (by decide)
  · have hone : counted .tick s = 1 := if_pos ⟨rfl, htx⟩
    have hsub := toNat_sub_one hc
    rw [e, hone]
    exact ⟨rfl, ⟨rfl, rfl, rfl, rfl, rfl⟩, rfl, .inr (by dsimp only; omega)⟩

/-- An acceptance, or a tick within the deadline, moves nothing of the receive, and the rest of the run stays within
what the countdown then allows. -/
theorem act_quiet {e : Event} {es : List Event} {s : State} (he : e = .txReady ∨ e = .tick) (h : Inv s)
    (hr : s.rstN = true) (hctr : s.rxState = .idle ∨ countedTicks (e :: es) s ≤ s.rxCtr.toNat) :
    ∃ u, act e s = .next u ∧ u.rxView = s.rxView ∧ Undisturbed s u ∧
      (s.rxState = .idle ∨ countedTicks es u ≤ u.rxCtr.toNat) ∧ (e ≠ .txReady → u.txProgress = s.txProgress) := by
  obtain rfl | rfl := he
  · obtain ⟨u, hu⟩ := txAccept_next h.tx
    obtain ⟨hund, hkeep⟩ := txAccept_undisturbed hu
    have ha : act .txReady s = .next u := (act_txReady hr).trans hu
    have hzero : counted .txReady s = 0 := if_neg nofun
    rw [countedTicks_cons ha, hzero, Nat.zero_add] at hctr
    exact ⟨u, ha, txAccept_rxView hu, hund, hkeep ▸ hctr, fun hne => absurd rfl hne⟩
  · have ha : act .tick s = .next (tick s) := act_tick hr
    rw [countedTicks_cons ha] at hctr
    obtain ⟨hview, hund, hprog, hcount⟩ := tick_quiet (hctr.imp_right (Nat.le_trans (Nat.le_add_right _ _)))
    refine ⟨_, ha, hview, hund, ?_, fun _ => hprog⟩
    by_cases hidle : s.rxState = .idle
    · exact .inl hidle
    · have hc := hctr.resolve_left hidle
      have hc' := hcount.resolve_left hidle
      exact .inr (by omega)

/-- A run of the ports without a byte moves nothing of the receive while it is within the deadline. -/
theorem runSteps_quiet {xs : List Event} {s : State} (hxs : ∀ e ∈ xs, e = .txReady ∨ e.isRxOrTick = true)
    (harr : arrivals xs = []) (h : Inv s) (hr : s.rstN = true)
    (hctr : s.rxState = .idle ∨ countedTicks xs s ≤ s.rxCtr.toNat) :
    ∃ u, runSteps xs s = .next u ∧ u.rxView = s.rxView ∧ Undisturbed s u ∧
      (.txReady ∉ xs → u.txProgress = s.txProgress) := by
  induction xs generalizing s with
  | nil => exact ⟨s, rfl, rfl, .refl s, fun _ => rfl⟩
  | cons e xs ih =>
    rw [List.forall_mem_cons] at hxs
    have he : (e = .txReady ∨ e = .tick) ∧ arrivals xs = [] := by
      cases e with
      | txReady => exact ⟨.inl rfl, harr⟩
      | tick => exact ⟨.inr rfl, harr⟩
      | rxArrive b => cases harr
      | host _ | rstN _ => simp [Event.isRxOrTick] at hxs
    obtain ⟨u, ha, hview, hund, hctr', hprog⟩ := act_quiet he.1 h hr hctr
    have hstate : u.rxState = s.rxState := congrArg RxView.state hview
    obtain ⟨t, hrun, hview', hund', hprog'⟩ := ih hxs.2 he.2 (act_inv h ha) (hund.rstN.trans hr) (hstate ▸ hctr')
    refine ⟨t, by rw [runSteps_cons, ha, andThen_next, hrun], hview'.trans hview, hund.trans hund', fun hno => ?_⟩
    rw [List.mem_cons, not_or] at hno
    exact (hprog' hno.2).trans (hprog (Ne.symm hno.1))

/-- A receive that has ended with the body `body` under the length byte `len`. -/
structure Received (len : Byte) (body : List (Option Byte)) (t : State) : Prop where
  idle : t.rxState = .idle
  done : t.ev.rxDone = true
  inTime : t.ev.rxTimeout = false
  length : t.rxLen = len
  count : t.rxCnt = len.toNat
  bytes : rxBody t = body

theorem rxBody_of_view {s t : State} (h : t.rxView = s.rxView) : rxBody t = rxBody s := by
  have hbuf : t.rxBuf = s.rxBuf := congrArg RxView.buf h
  have hcnt : t.rxCnt = s.rxCnt := congrArg RxView.cnt h
  rw [rxBody, rxBody, hbuf, hcnt]

theorem Received.of_view {len : Byte} {body : List (Option Byte)} {s t : State} (h : Received len body s)
    (hv : t.rxView = s.rxView) : Received len body t where
  idle := (congrArg RxView.state hv).trans h.idle
  done := (congrArg RxView.done hv).trans h.done
  inTime := (congrArg RxView.timeout hv).trans h.inTime
  length := (congrArg RxView.len hv).trans h.length
  count := (congrArg RxView.cnt hv).trans h.count
  bytes := (rxBody_of_view hv).trans h.bytes

/-- A body byte goes at the end of the received body (R197). -/
theorem rxBody_of_append {s t : State} {b : Byte} (hb : t.rxBuf = s.rxBuf.write s.rxCnt b)
    (hc : t.rxCnt = s.rxCnt + 1) : rxBody t = rxBody s ++ [some b] := by
  rw [rxBody, hc, hb, List.range_succ, List.map_append]
  congr 1
  · refine List.map_congr_left fun i hi => Memory.read_write_other _ _ _ _ ?_
    rw [List.mem_range] at hi
    omega
  · simp

/-- Last or not, a body byte goes at the end of the body and moves nothing else but the state and RX_DONE (R197). -/
theorem takeBody_appends (b : Byte) (s : State) :
    rxBody (takeBody b s) = rxBody s ++ [some b] ∧ (takeBody b s).rxCnt = s.rxCnt + 1 ∧
      (takeBody b s).rxLen = s.rxLen ∧ (takeBody b s).rxCtr = s.rxCtr ∧ Undisturbed s (takeBody b s) ∧
      (takeBody b s).txProgress = s.txProgress := by
  obtain ⟨-, e⟩ | ⟨-, e⟩ := takeBody_cases b s <;> rw [e]
  all_goals exact ⟨rxBody_of_append rfl rfl, rfl, rfl, rfl, ⟨rfl, rfl, rfl, rfl, rfl⟩, rfl⟩

/-- A step `e` of the ports while a receive waits for its body, with the steps `es` to come: the byte it brings goes
from what is to arrive into the body, the rest stays within the deadline, and the receive still waits or has ended. -/
structure BodyStep (e : Event) (es : List Event) (s u : State) : Prop where
  undisturbed : Undisturbed s u
  progress : e ≠ .txReady → u.txProgress = s.txProgress
  length : u.rxLen = s.rxLen
  count : u.rxCnt + (arrivals es).length = s.rxCnt + (arrivals (e :: es)).length
  bytes : rxBody u ++ (arrivals es).map some = rxBody s ++ (arrivals (e :: es)).map some
  inTime : countedTicks es u ≤ u.rxCtr.toNat
  waitsOrEnds : u.rxState = .waitBody ∨ Received s.rxLen (rxBody u) u

section Body

variable {e : Event} {es : List Event} {s : State} (h : Inv s) (hr : s.rstN = true) (hst : s.rxState = .waitBody)
include h hr hst

theorem bodyStep_quiet (he : e = .txReady ∨ e = .tick) (hctr : countedTicks (e :: es) s ≤ s.rxCtr.toNat) :
    ∃ u, act e s = .next u ∧ BodyStep e es s u := by
  have hwait : s.rxState ≠ .idle := by rw [hst]; decide
  have harr : arrivals (e :: es) = arrivals es := by obtain rfl | rfl := he <;> rfl
  obtain ⟨u, ha, hview, hund, hctr', hprog⟩ := act_quiet he h hr (.inr hctr)
  have hcnt : u.rxCnt = s.rxCnt := congrArg RxView.cnt hview
  exact ⟨u, ha, {
    undisturbed := hund
    progress := hprog
    length := congrArg RxView.len hview
    count := by rw [harr, hcnt]
    bytes := by rw [harr, rxBody_of_view hview]
    inTime := hctr'.resolve_left hwait
    waitsOrEnds := .inl ((congrArg RxView.state hview).trans hst) }⟩

theorem bodyStep_byte (b : Byte) (hctr : countedTicks (.rxArrive b :: es) s ≤ s.rxCtr.toNat) :
    ∃ u, act (.rxArrive b) s = .next u ∧ BodyStep (.rxArrive b) es s u := by
  have ha : act (.rxArrive b) s = .next (takeBody b s) := by rw [act_rxArrive b hr, rxArrive_body b hst]
  have hzero : counted (.rxArrive b) s = 0 := if_neg nofun
  obtain ⟨hbytes, hcnt, hlen, hkeep, hund, hprog⟩ := takeBody_appends b s
  rw [countedTicks_cons ha, hzero, Nat.zero_add, ← hkeep] at hctr
  refine ⟨_, ha, {
    undisturbed := hund
    progress := fun _ => hprog
    length := hlen
    count := by rw [hcnt, arrivals_cons_rxArrive, List.length_cons]; omega
    bytes := by rw [hbytes, arrivals_cons_rxArrive, List.map_cons, ← List.append_cons]
    inTime := hctr
    waitsOrEnds := ?_ }⟩
  obtain ⟨hlast, e⟩ | ⟨-, e⟩ := takeBody_cases b s
  · obtain ⟨-, htimeout⟩ := h.rx.noOutcome (by rw [hst]; decide)
    rw [e]
    exact .inr ⟨rfl, rfl, htimeout, rfl, hlast, rfl⟩
  · rw [e]
    exact .inl hst

theorem bodyStep_port (he : e = .txReady ∨ e.isRxOrTick = true)
    (hctr : countedTicks (e :: es) s ≤ s.rxCtr.toNat) : ∃ u, act e s = .next u ∧ BodyStep e es s u := by
  cases e with
  | txReady => exact bodyStep_quiet h hr hst (.inl rfl) hctr
  | tick => exact bodyStep_quiet h hr hst (.inr rfl) hctr
  | rxArrive b => exact bodyStep_byte h hr hst b hctr
  | host _ | rstN _ => simp [Event.isRxOrTick] at he

end Body

/-- The body bytes that are missing, within the deadline, end the receive with all of them (R197). -/
theorem runSteps_body {ys : List Event} {s : State} (hys : ∀ e ∈ ys, e = .txReady ∨ e.isRxOrTick = true)
    (h : Inv s) (hr : s.rstN = true) (hst : s.rxState = .waitBody)
    (hlen : s.rxCnt + (arrivals ys).length = s.rxLen.toNat) (hctr : countedTicks ys s ≤ s.rxCtr.toNat) :
    ∃ t, runSteps ys s = .next t ∧ Received s.rxLen (rxBody s ++ (arrivals ys).map some) t ∧ Undisturbed s t ∧
      (.txReady ∉ ys → t.txProgress = s.txProgress) := by
  induction ys generalizing s with
  | nil =>
    obtain ⟨-, hmissing⟩ := h.rx.waitBody hst
    exact absurd hlen hmissing.ne
  | cons e ys ih =>
    rw [List.forall_mem_cons] at hys
    obtain ⟨u, ha, hstep⟩ := bodyStep_port h hr hst hys.1 hctr
    have hinv := act_inv h ha
    have hru : u.rstN = true := hstep.undisturbed.rstN.trans hr
    have hcount := hstep.count.trans hlen
    rw [← hstep.bytes, runSteps_cons, ha, andThen_next]
    have hrest : ∃ t, runSteps ys u = .next t ∧ Received s.rxLen (rxBody u ++ (arrivals ys).map some) t ∧
        Undisturbed u t ∧ (.txReady ∉ ys → t.txProgress = u.txProgress) := by
      obtain hwait | hend := hstep.waitsOrEnds
      · rw [← hstep.length] at hcount ⊢
        exact ih hys.2 hinv hru hwait hcount hstep.inTime
      · have hnone : arrivals ys = [] := by
          have hall := hend.count
          exact List.eq_nil_of_length_eq_zero (by omega)
        obtain ⟨t, hrun, hview, hund, hprog⟩ := runSteps_quiet hys.2 hnone hinv hru (.inl hend.idle)
        rw [hnone, List.map_nil, List.append_nil]
        exact ⟨t, hrun, hend.of_view hview, hund, hprog⟩
    obtain ⟨t, hrun, hreceived, hund, hprog⟩ := hrest
    refine ⟨t, hrun, hreceived, hstep.undisturbed.trans hund, fun hno => ?_⟩
    rw [List.mem_cons, not_or] at hno
    exact (hprog hno.2).trans (hstep.progress (Ne.symm hno.1))

theorem takeLength_undisturbed (b : Byte) (s : State) : Undisturbed s (takeLength b s) := by
  obtain ⟨-, e⟩ | ⟨-, e⟩ := takeLength_cases b s <;> rw [e] <;> exact ⟨rfl, rfl, rfl, rfl, rfl⟩

/-- A length byte and as many body bytes, within the deadline from the length byte on, end the receive (R195, R197). -/
theorem runSteps_lengthAndBody {len : Byte} {ys : List Event} {s : State}
    (hys : ∀ e ∈ ys, e = .txReady ∨ e.isRxOrTick = true) (h : Inv s) (hr : s.rstN = true)
    (hst : s.rxState = .waitFirst) (hmode : s.rxMode = .frame) (hlen : (arrivals ys).length = len.toNat)
    (hctr : countedTicks (.rxArrive len :: ys) s ≤ s.rxTmo.toNat) :
    ∃ t, runSteps (.rxArrive len :: ys) s = .next t ∧ Received len ((arrivals ys).map some) t ∧ Undisturbed s t ∧
      (.txReady ∉ ys → t.txProgress = s.txProgress) := by
  obtain ⟨hcnt, -⟩ := h.rx.waitFirst hst
  obtain ⟨-, htimeout⟩ := h.rx.noOutcome (by rw [hst]; decide)
  have hempty : rxBody s = [] := by rw [rxBody, hcnt]; rfl
  have ha : act (.rxArrive len) s = .next (takeLength len s) := by
    rw [act_rxArrive len hr, rxArrive_frame len hst hmode]
  have hinv := act_inv h ha
  have htaken := takeLength_undisturbed len s
  have hzero : counted (.rxArrive len) s = 0 := if_neg nofun
  rw [countedTicks_cons ha, hzero, Nat.zero_add] at hctr
  rw [runSteps_cons, ha, andThen_next]
  obtain ⟨rfl, e⟩ | ⟨-, e⟩ := takeLength_cases len s <;> rw [e] at hinv htaken hctr ⊢
  · have hnone : arrivals ys = [] := List.eq_nil_of_length_eq_zero hlen
    obtain ⟨t, hrun, hview, hund, hprog⟩ := runSteps_quiet hys hnone hinv hr (.inl rfl)
    rw [hnone]
    have hend : Received 0 [] (raise .rxDone { s with rxLen := 0, rxState := .idle }) :=
      ⟨rfl, rfl, htimeout, rfl, hcnt, hempty⟩
    exact ⟨t, hrun, hend.of_view hview, htaken.trans hund, hprog⟩
  · obtain ⟨t, hrun, hreceived, hund, hprog⟩ := runSteps_body hys hinv hr rfl
      (by dsimp only; rw [hcnt, Nat.zero_add, hlen]) hctr
    have hbody : rxBody { s with rxLen := len, rxState := .waitBody, rxCtr := s.rxTmo } = [] := hempty
    rw [hbody, List.nil_append] at hreceived
    exact ⟨t, hrun, hreceived, htaken.trans hund, hprog⟩

/-- Settles O50: the arm waits for the length byte while the deadline allows, and the body follows it. -/
theorem deserializerMeetsTheSourcesDecode : Obligations.DeserializerMeetsTheSourcesDecode := by
  intro s xs len d ys h hr hidle hports hxs hys hd hcount
  rw [List.forall_mem_append] at hports
  have harm : act (issue .rxFrame) s = .next ((respond .written s).armed .frame) :=
    act_arm (m := .frame) (by decide) hr hidle
  have hzero : counted (issue .rxFrame) s = 0 := if_neg nofun
  rw [countedTicks_cons harm, hzero, Nat.zero_add] at hcount
  obtain ⟨u, hrun, hview, hund, hprog⟩ := runSteps_quiet hports.1 hxs (act_inv h harm) hr (.inr hcount)
  have hrun' : runSteps (issue .rxFrame :: xs) s = .next u := by rw [runSteps_cons, harm, andThen_next, hrun]
  have htmo : u.rxTmo = s.rxTmo := hund.rxTmo
  refine ⟨u, hrun', fun hcount' => ?_⟩
  subst hys
  obtain ⟨t, hrunBody, hreceived, hund', hprog'⟩ := runSteps_lengthAndBody hports.2 (runSteps_inv h hrun')
    (hund.rstN.trans hr) (congrArg RxView.state hview) (congrArg RxView.mode hview) hd (htmo ▸ hcount')
  have hall := hund.trans hund'
  have hdecode : decodeLengthPrefixed (len :: arrivals ys) = some (arrivals ys) := by
    rw [decodeLengthPrefixed, if_pos hd.ge, ← hd, List.take_length]
  refine ⟨t, hrunBody, hreceived.idle, hreceived.done, hreceived.inTime, hreceived.length, hreceived.count,
    hreceived.bytes, hdecode, hall.rxDrop, hall.crcAcc, hall.crcCnt, fun hno => ?_⟩
  rw [List.mem_append, not_or] at hno
  have hkept : t.txProgress = s.txProgress := (hprog' hno.2).trans (hprog hno.1)
  exact ⟨congrArg Prod.fst hkept, congrArg (fun p => p.2.1) hkept, congrArg (fun p => p.2.2) hkept⟩

end Sys2Proof.Machine
end
